-- ==== Sys2Proof/Word.lean ====
section
/-! DEFINITION. The word types of the WDC65C02: bytes (10_state.md R10, 20_memory.md R30) and 16-bit words
(10_state.md R13, 20_memory.md R30). The helpers that cut and join them are in Machine/Bits.lean. -/

namespace Sys2Proof

/-- A byte: the content of a memory location, of A, X, Y and S (R10, R12, R30). -/
abbrev Byte := BitVec 8

/-- A 16-bit word: an address, the program counter, a vector (R13, R30, R36). -/
abbrev Word := BitVec 16

end Sys2Proof
end

