-- ==== Sys2Proof/Machine/Bits.lean ====
section
/-! DEFINITION. Cutting and joining bytes and words: the notation of 00_scope.md R4 (`hi:lo`, `v[15:8]`, `zext_16`,
`sext_16`, `v[i]`). -/

namespace Sys2Proof.Machine

/-- `hi:lo` between two bytes: `hi` in bits 15:8, `lo` in bits 7:0 (R4). -/
def word (hi lo : Byte) : Word := hi ++ lo

/-- `w[15:8]` (R4). -/
def hiByte (w : Word) : Byte := w.extractLsb' 8 8

/-- `w[7:0]` (R4). -/
def loByte (w : Word) : Byte := w.extractLsb' 0 8

/-- `zext_16(v)`: the byte as a number 0..255 (R4). -/
def zext16 (v : Byte) : Word := v.setWidth 16

/-- `sext_16(v)`: the byte read as two's complement, -128..127 (R4). -/
def sext16 (v : Byte) : Word := v.signExtend 16

/-- `v[n]`, bit 7 the most significant (R3, R4). -/
def bitOf (v : Byte) (n : Nat) : Bool := v.getLsbD n

/-- The byte whose bit `n` alone is 1: `1 << n` (43_logic.md R153, R154). -/
def bitMask (n : Nat) : Byte := 1#8 <<< n

end Sys2Proof.Machine
end

