-- ==== Sys2Proof/Syntax.lean ====
section
/-! DEFINITION. The syntax of the WDC65C02: one constructor of `Instr` per mnemonic of spec/opcode_table.json (the bit
number of BBRn, BBSn, RMBn, SMBn is part of the mnemonic, 30_encoding.md R93), the addressing mode of a table row being the
constructor's operand (30_encoding.md R54 to R69); which modes a mnemonic has is in WellFormed.lean (log 21). -/

namespace Sys2Proof

/-- The addressing modes by the source's names (30_encoding.md R54 to R69), and the mark of a reserved byte (R90). -/
inductive Mode where
  | implied | accumulator | immediate | zeroPage | zeroPageX | zeroPageY | absolute | absoluteX | absoluteY
  | indirectX | indirectY | zeroPageIndirect | indirect | absoluteIndirectX | relative | zeroPageRelative | reserved
deriving DecidableEq, Repr

/-- An operand in memory: the modes that compute an effective address (R57 to R65). -/
inductive MemArg where
  | zp (z : Byte)      -- $44
  | zpX (z : Byte)     -- $44,X
  | zpY (z : Byte)     -- $44,Y
  | abs (w : Word)     -- $4400
  | absX (w : Word)    -- $4400,X
  | absY (w : Word)    -- $4400,Y
  | indX (z : Byte)    -- ($44,X)
  | indY (z : Byte)    -- ($44),Y
  | zpInd (z : Byte)   -- ($44)
deriving DecidableEq, Repr

/-- An operand that is read only: Immediate (R56) or a memory byte. -/
inductive ReadArg where
  | imm (v : Byte)
  | mem (m : MemArg)
deriving DecidableEq, Repr

/-- An operand that is read, changed and written back: the accumulator (R55) or a memory byte. -/
inductive ModArg where
  | acc
  | mem (m : MemArg)
deriving DecidableEq, Repr

/-- The operand of JMP: Absolute (R60), Indirect (R66) or (Absolute,X) (R67). -/
inductive JumpArg where
  | abs (w : Word)
  | ind (w : Word)
  | absX (w : Word)
deriving DecidableEq, Repr

/-- The instructions, family by family in the order of the source's By-Function table (00_scope.md R2).
`z` is a zero-page address, `d` a signed displacement. -/
inductive Instr where
  -- Load/Store (R100 to R106)
  | lda (o : ReadArg) | ldx (o : ReadArg) | ldy (o : ReadArg)
  | sta (m : MemArg) | stx (m : MemArg) | sty (m : MemArg) | stz (m : MemArg)
  -- Transfer (R110 to R115)
  | tax | tay | tsx | txa | txs | tya
  -- Stack (R120 to R127)
  | pha | php | phx | phy | pla | plp | plx | ply
  -- Logic (R141 to R154)
  | asl (o : ModArg) | lsr (o : ModArg) | rol (o : ModArg) | ror (o : ModArg)
  | and (o : ReadArg) | bit (o : ReadArg) | eor (o : ReadArg) | ora (o : ReadArg)
  | trb (m : MemArg) | tsb (m : MemArg) | nop
  | rmb0 (z : Byte) | rmb1 (z : Byte) | rmb2 (z : Byte) | rmb3 (z : Byte)
  | rmb4 (z : Byte) | rmb5 (z : Byte) | rmb6 (z : Byte) | rmb7 (z : Byte)
  | smb0 (z : Byte) | smb1 (z : Byte) | smb2 (z : Byte) | smb3 (z : Byte)
  | smb4 (z : Byte) | smb5 (z : Byte) | smb6 (z : Byte) | smb7 (z : Byte)
  -- Math (R160 to R172)
  | adc (o : ReadArg) | sbc (o : ReadArg) | cmp (o : ReadArg) | cpx (o : ReadArg) | cpy (o : ReadArg)
  | inc (o : ModArg) | inx | iny | dec (o : ModArg) | dex | dey
  -- Branch (R181 to R190)
  | bcc (d : Byte) | bcs (d : Byte) | beq (d : Byte) | bmi (d : Byte)
  | bne (d : Byte) | bpl (d : Byte) | bvc (d : Byte) | bvs (d : Byte)
  | bbr0 (z d : Byte) | bbr1 (z d : Byte) | bbr2 (z d : Byte) | bbr3 (z d : Byte)
  | bbr4 (z d : Byte) | bbr5 (z d : Byte) | bbr6 (z d : Byte) | bbr7 (z d : Byte)
  | bbs0 (z d : Byte) | bbs1 (z d : Byte) | bbs2 (z d : Byte) | bbs3 (z d : Byte)
  | bbs4 (z d : Byte) | bbs5 (z d : Byte) | bbs6 (z d : Byte) | bbs7 (z d : Byte)
  -- Flow (R200 to R208)
  | bra (d : Byte) | jmp (t : JumpArg) | jsr (w : Word) | rti | rts | brk | stp | wai
  -- Flags (R220 to R226)
  | clc | cld | cli | clv | sec | sed | sei
  -- the 44 reserved bytes (R90): the opcode byte and the operand bytes it skips
  | reserved (op : Byte) (skipped : List Byte)
deriving DecidableEq, Repr

/-- The addressing mode of a memory operand. -/
def MemArg.mode : MemArg → Mode
  | .zp _ => .zeroPage
  | .zpX _ => .zeroPageX
  | .zpY _ => .zeroPageY
  | .abs _ => .absolute
  | .absX _ => .absoluteX
  | .absY _ => .absoluteY
  | .indX _ => .indirectX
  | .indY _ => .indirectY
  | .zpInd _ => .zeroPageIndirect

/-- The addressing mode of a read operand. -/
def ReadArg.mode : ReadArg → Mode
  | .imm _ => .immediate
  | .mem m => m.mode

/-- The addressing mode of a read-modify-write operand. -/
def ModArg.mode : ModArg → Mode
  | .acc => .accumulator
  | .mem m => m.mode

/-- The addressing mode of a JMP operand. -/
def JumpArg.mode : JumpArg → Mode
  | .abs _ => .absolute
  | .ind _ => .indirect
  | .absX _ => .absoluteIndirectX

/-- The length in bytes that a mode has (30_encoding.md R50, R54 to R69); a reserved byte has its own (R90). -/
def Mode.length : Mode → Nat
  | .implied | .accumulator | .reserved => 1
  | .immediate | .zeroPage | .zeroPageX | .zeroPageY | .indirectX | .indirectY | .zeroPageIndirect | .relative => 2
  | .absolute | .absoluteX | .absoluteY | .indirect | .absoluteIndirectX | .zeroPageRelative => 3

/-- The addressing mode of an instruction. -/
def Instr.mode : Instr → Mode
  | .lda o | .ldx o | .ldy o | .and o | .bit o | .eor o | .ora o | .adc o | .sbc o | .cmp o | .cpx o | .cpy o => o.mode
  | .sta m | .stx m | .sty m | .stz m | .trb m | .tsb m => m.mode
  | .asl o | .lsr o | .rol o | .ror o | .inc o | .dec o => o.mode
  | .tax | .tay | .tsx | .txa | .txs | .tya | .pha | .php | .phx | .phy | .pla | .plp | .plx | .ply | .nop
  | .inx | .iny | .dex | .dey | .rti | .rts | .brk | .stp | .wai
  | .clc | .cld | .cli | .clv | .sec | .sed | .sei => .implied
  | .rmb0 _ | .rmb1 _ | .rmb2 _ | .rmb3 _ | .rmb4 _ | .rmb5 _ | .rmb6 _ | .rmb7 _
  | .smb0 _ | .smb1 _ | .smb2 _ | .smb3 _ | .smb4 _ | .smb5 _ | .smb6 _ | .smb7 _ => .zeroPage
  | .bcc _ | .bcs _ | .beq _ | .bmi _ | .bne _ | .bpl _ | .bvc _ | .bvs _ | .bra _ => .relative
  | .bbr0 _ _ | .bbr1 _ _ | .bbr2 _ _ | .bbr3 _ _ | .bbr4 _ _ | .bbr5 _ _ | .bbr6 _ _ | .bbr7 _ _
  | .bbs0 _ _ | .bbs1 _ _ | .bbs2 _ _ | .bbs3 _ _ | .bbs4 _ _ | .bbs5 _ _ | .bbs6 _ _ | .bbs7 _ _ => .zeroPageRelative
  | .jmp t => t.mode
  | .jsr _ => .absolute
  | .reserved _ _ => .reserved

/-- The length `L` of an instruction in bytes (00_scope.md R5, 30_encoding.md R50, R90). BRK's is 1 (90_conflicts.md C14). -/
def Instr.length : Instr → Nat
  | .reserved _ skipped => 1 + skipped.length
  | i => i.mode.length

end Sys2Proof
end

