-- ==== Sys2Proof/WellFormed.lean ====
section
/-! DEFINITION. Which terms of the syntax are instructions of the part: the modes each mnemonic has (30_encoding.md R71, R72 and
the "Encodings" of every instruction's rule), and the reserved bytes with their lengths (30_encoding.md R90). -/

namespace Sys2Proof

/-- The nine modes of ADC AND CMP EOR LDA ORA SBC (R71, R72). -/
def aluModes : List Mode :=
  [.immediate, .zeroPage, .zeroPageX, .absolute, .absoluteX, .absoluteY, .indirectX, .indirectY, .zeroPageIndirect]

/-- The five modes of ASL LSR ROL ROR INC DEC (R71, R72). -/
def modifyModes : List Mode := [.accumulator, .zeroPage, .zeroPageX, .absolute, .absoluteX]

/-- The modes a mnemonic has on this part (R71). -/
def Instr.legalModes : Instr → List Mode
  | .lda _ | .and _ | .eor _ | .ora _ | .adc _ | .sbc _ | .cmp _ => aluModes
  | .ldx _ => [.immediate, .zeroPage, .zeroPageY, .absolute, .absoluteY]
  | .ldy _ => [.immediate, .zeroPage, .zeroPageX, .absolute, .absoluteX]
  | .sta _ => [.zeroPage, .zeroPageX, .absolute, .absoluteX, .absoluteY, .indirectX, .indirectY, .zeroPageIndirect]
  | .stx _ => [.zeroPage, .zeroPageY, .absolute]
  | .sty _ => [.zeroPage, .zeroPageX, .absolute]
  | .stz _ => [.zeroPage, .zeroPageX, .absolute, .absoluteX]
  | .asl _ | .lsr _ | .rol _ | .ror _ | .inc _ | .dec _ => modifyModes
  | .bit _ => [.immediate, .zeroPage, .zeroPageX, .absolute, .absoluteX]
  | .trb _ | .tsb _ => [.zeroPage, .absolute]
  | .cpx _ | .cpy _ => [.immediate, .zeroPage, .absolute]
  | .jmp _ => [.absolute, .indirect, .absoluteIndirectX]
  | i => [i.mode]

/-- The reserved bytes of length 2 (R90). -/
def reservedTwo : List Byte :=
  [0x02#8, 0x22#8, 0x42#8, 0x62#8, 0x82#8, 0xC2#8, 0xE2#8, 0x44#8, 0x54#8, 0xD4#8, 0xF4#8]

/-- The reserved bytes of length 3 (R90). -/
def reservedThree : List Byte := [0x5C#8, 0xDC#8, 0xFC#8]

/-- The length of a reserved byte, none where the byte is not reserved (R90): the $x3 column and the $xB column less $CB (WAI)
and $DB (STP) have length 1. -/
def reservedLength (op : Byte) : Option Nat :=
  if op ∈ reservedTwo then some 2
  else if op ∈ reservedThree then some 3
  else if op.extractLsb' 0 4 = 0x3#4 then some 1
  else if op.extractLsb' 0 4 = 0xB#4 ∧ op ≠ 0xCB#8 ∧ op ≠ 0xDB#8 then some 1
  else none

/-- A term is an instruction of the part: its mode is one its mnemonic has; a reserved term holds a reserved byte and as many
operand bytes as that byte skips. -/
def Instr.wf : Instr → Bool
  | .reserved op skipped => reservedLength op == some (1 + skipped.length)
  | i => i.legalModes.contains i.mode

/-- The predicate form of `Instr.wf`. -/
abbrev Instr.WellFormed (i : Instr) : Prop := i.wf = true

end Sys2Proof
end

