-- ==== Sys2Proof/Decode.lean ====
section
/-! DEFINITION. Decoding and encoding. The decoder is the opcode map of 30_encoding.md R53, read by the first byte alone (R50,
R52); it is total on any bytes and rejects only bytes that end too early. The encoder is the map by mnemonic, R71. Every
opcode byte is the spec's general knowledge (log 1). -/

namespace Sys2Proof

open Machine (word hiByte loByte)

/-- Why bytes are no instruction. Every one of the 256 first bytes begins one (R52, R90), so only the end of the bytes can
be wrong. -/
inductive DecodeError where
  /-- there is no byte at all -/
  | noByte
  /-- the opcode byte's instruction has more bytes than there are -/
  | truncated (op : Byte)
deriving DecidableEq, Repr

/-- A cell of the opcode map: the instruction an opcode byte begins, as a function of its operand bytes in the order they
stand in memory (R51). -/
inductive Row where
  | one (i : Instr)
  | two (f : Byte → Instr)
  | three (f : Byte → Byte → Instr)

/-- The length `L` that the opcode byte tells (R52). -/
def Row.length : Row → Nat
  | .one _ => 1
  | .two _ => 2
  | .three _ => 3

/-- A three-byte cell whose operand bytes are one 16-bit word, low byte first (R51 format F3a, R32). -/
def wordRow (f : Word → Instr) : Row := .three fun lo hi => f (word hi lo)

/-- Row 0x of the opcode map (R53). -/
def opcodeRow0 : List Row :=
  [ .one .brk
  , .two fun z => .ora (.mem (.indX z))
  , .two fun b => .reserved 0x02#8 [b]
  , .one (.reserved 0x03#8 [])
  , .two fun z => .tsb (.zp z)
  , .two fun z => .ora (.mem (.zp z))
  , .two fun z => .asl (.mem (.zp z))
  , .two fun z => .rmb0 z
  , .one .php
  , .two fun v => .ora (.imm v)
  , .one (.asl .acc)
  , .one (.reserved 0x0B#8 [])
  , wordRow fun w => .tsb (.abs w)
  , wordRow fun w => .ora (.mem (.abs w))
  , wordRow fun w => .asl (.mem (.abs w))
  , .three fun z d => .bbr0 z d ]

/-- Row 1x of the opcode map (R53). -/
def opcodeRow1 : List Row :=
  [ .two fun d => .bpl d
  , .two fun z => .ora (.mem (.indY z))
  , .two fun z => .ora (.mem (.zpInd z))
  , .one (.reserved 0x13#8 [])
  , .two fun z => .trb (.zp z)
  , .two fun z => .ora (.mem (.zpX z))
  , .two fun z => .asl (.mem (.zpX z))
  , .two fun z => .rmb1 z
  , .one .clc
  , wordRow fun w => .ora (.mem (.absY w))
  , .one (.inc .acc)
  , .one (.reserved 0x1B#8 [])
  , wordRow fun w => .trb (.abs w)
  , wordRow fun w => .ora (.mem (.absX w))
  , wordRow fun w => .asl (.mem (.absX w))
  , .three fun z d => .bbr1 z d ]

/-- Row 2x of the opcode map (R53). -/
def opcodeRow2 : List Row :=
  [ wordRow fun w => .jsr w
  , .two fun z => .and (.mem (.indX z))
  , .two fun b => .reserved 0x22#8 [b]
  , .one (.reserved 0x23#8 [])
  , .two fun z => .bit (.mem (.zp z))
  , .two fun z => .and (.mem (.zp z))
  , .two fun z => .rol (.mem (.zp z))
  , .two fun z => .rmb2 z
  , .one .plp
  , .two fun v => .and (.imm v)
  , .one (.rol .acc)
  , .one (.reserved 0x2B#8 [])
  , wordRow fun w => .bit (.mem (.abs w))
  , wordRow fun w => .and (.mem (.abs w))
  , wordRow fun w => .rol (.mem (.abs w))
  , .three fun z d => .bbr2 z d ]

/-- Row 3x of the opcode map (R53). -/
def opcodeRow3 : List Row :=
  [ .two fun d => .bmi d
  , .two fun z => .and (.mem (.indY z))
  , .two fun z => .and (.mem (.zpInd z))
  , .one (.reserved 0x33#8 [])
  , .two fun z => .bit (.mem (.zpX z))
  , .two fun z => .and (.mem (.zpX z))
  , .two fun z => .rol (.mem (.zpX z))
  , .two fun z => .rmb3 z
  , .one .sec
  , wordRow fun w => .and (.mem (.absY w))
  , .one (.dec .acc)
  , .one (.reserved 0x3B#8 [])
  , wordRow fun w => .bit (.mem (.absX w))
  , wordRow fun w => .and (.mem (.absX w))
  , wordRow fun w => .rol (.mem (.absX w))
  , .three fun z d => .bbr3 z d ]

/-- Row 4x of the opcode map (R53). -/
def opcodeRow4 : List Row :=
  [ .one .rti
  , .two fun z => .eor (.mem (.indX z))
  , .two fun b => .reserved 0x42#8 [b]
  , .one (.reserved 0x43#8 [])
  , .two fun b => .reserved 0x44#8 [b]
  , .two fun z => .eor (.mem (.zp z))
  , .two fun z => .lsr (.mem (.zp z))
  , .two fun z => .rmb4 z
  , .one .pha
  , .two fun v => .eor (.imm v)
  , .one (.lsr .acc)
  , .one (.reserved 0x4B#8 [])
  , wordRow fun w => .jmp (.abs w)
  , wordRow fun w => .eor (.mem (.abs w))
  , wordRow fun w => .lsr (.mem (.abs w))
  , .three fun z d => .bbr4 z d ]

/-- Row 5x of the opcode map (R53). -/
def opcodeRow5 : List Row :=
  [ .two fun d => .bvc d
  , .two fun z => .eor (.mem (.indY z))
  , .two fun z => .eor (.mem (.zpInd z))
  , .one (.reserved 0x53#8 [])
  , .two fun b => .reserved 0x54#8 [b]
  , .two fun z => .eor (.mem (.zpX z))
  , .two fun z => .lsr (.mem (.zpX z))
  , .two fun z => .rmb5 z
  , .one .cli
  , wordRow fun w => .eor (.mem (.absY w))
  , .one .phy
  , .one (.reserved 0x5B#8 [])
  , .three fun b b' => .reserved 0x5C#8 [b, b']
  , wordRow fun w => .eor (.mem (.absX w))
  , wordRow fun w => .lsr (.mem (.absX w))
  , .three fun z d => .bbr5 z d ]

/-- Row 6x of the opcode map (R53). -/
def opcodeRow6 : List Row :=
  [ .one .rts
  , .two fun z => .adc (.mem (.indX z))
  , .two fun b => .reserved 0x62#8 [b]
  , .one (.reserved 0x63#8 [])
  , .two fun z => .stz (.zp z)
  , .two fun z => .adc (.mem (.zp z))
  , .two fun z => .ror (.mem (.zp z))
  , .two fun z => .rmb6 z
  , .one .pla
  , .two fun v => .adc (.imm v)
  , .one (.ror .acc)
  , .one (.reserved 0x6B#8 [])
  , wordRow fun w => .jmp (.ind w)
  , wordRow fun w => .adc (.mem (.abs w))
  , wordRow fun w => .ror (.mem (.abs w))
  , .three fun z d => .bbr6 z d ]

/-- Row 7x of the opcode map (R53). -/
def opcodeRow7 : List Row :=
  [ .two fun d => .bvs d
  , .two fun z => .adc (.mem (.indY z))
  , .two fun z => .adc (.mem (.zpInd z))
  , .one (.reserved 0x73#8 [])
  , .two fun z => .stz (.zpX z)
  , .two fun z => .adc (.mem (.zpX z))
  , .two fun z => .ror (.mem (.zpX z))
  , .two fun z => .rmb7 z
  , .one .sei
  , wordRow fun w => .adc (.mem (.absY w))
  , .one .ply
  , .one (.reserved 0x7B#8 [])
  , wordRow fun w => .jmp (.absX w)
  , wordRow fun w => .adc (.mem (.absX w))
  , wordRow fun w => .ror (.mem (.absX w))
  , .three fun z d => .bbr7 z d ]

/-- Row 8x of the opcode map (R53). -/
def opcodeRow8 : List Row :=
  [ .two fun d => .bra d
  , .two fun z => .sta (.indX z)
  , .two fun b => .reserved 0x82#8 [b]
  , .one (.reserved 0x83#8 [])
  , .two fun z => .sty (.zp z)
  , .two fun z => .sta (.zp z)
  , .two fun z => .stx (.zp z)
  , .two fun z => .smb0 z
  , .one .dey
  , .two fun v => .bit (.imm v)
  , .one .txa
  , .one (.reserved 0x8B#8 [])
  , wordRow fun w => .sty (.abs w)
  , wordRow fun w => .sta (.abs w)
  , wordRow fun w => .stx (.abs w)
  , .three fun z d => .bbs0 z d ]

/-- Row 9x of the opcode map (R53). -/
def opcodeRow9 : List Row :=
  [ .two fun d => .bcc d
  , .two fun z => .sta (.indY z)
  , .two fun z => .sta (.zpInd z)
  , .one (.reserved 0x93#8 [])
  , .two fun z => .sty (.zpX z)
  , .two fun z => .sta (.zpX z)
  , .two fun z => .stx (.zpY z)
  , .two fun z => .smb1 z
  , .one .tya
  , wordRow fun w => .sta (.absY w)
  , .one .txs
  , .one (.reserved 0x9B#8 [])
  , wordRow fun w => .stz (.abs w)
  , wordRow fun w => .sta (.absX w)
  , wordRow fun w => .stz (.absX w)
  , .three fun z d => .bbs1 z d ]

/-- Row Ax of the opcode map (R53). -/
def opcodeRowA : List Row :=
  [ .two fun v => .ldy (.imm v)
  , .two fun z => .lda (.mem (.indX z))
  , .two fun v => .ldx (.imm v)
  , .one (.reserved 0xA3#8 [])
  , .two fun z => .ldy (.mem (.zp z))
  , .two fun z => .lda (.mem (.zp z))
  , .two fun z => .ldx (.mem (.zp z))
  , .two fun z => .smb2 z
  , .one .tay
  , .two fun v => .lda (.imm v)
  , .one .tax
  , .one (.reserved 0xAB#8 [])
  , wordRow fun w => .ldy (.mem (.abs w))
  , wordRow fun w => .lda (.mem (.abs w))
  , wordRow fun w => .ldx (.mem (.abs w))
  , .three fun z d => .bbs2 z d ]

/-- Row Bx of the opcode map (R53). -/
def opcodeRowB : List Row :=
  [ .two fun d => .bcs d
  , .two fun z => .lda (.mem (.indY z))
  , .two fun z => .lda (.mem (.zpInd z))
  , .one (.reserved 0xB3#8 [])
  , .two fun z => .ldy (.mem (.zpX z))
  , .two fun z => .lda (.mem (.zpX z))
  , .two fun z => .ldx (.mem (.zpY z))
  , .two fun z => .smb3 z
  , .one .clv
  , wordRow fun w => .lda (.mem (.absY w))
  , .one .tsx
  , .one (.reserved 0xBB#8 [])
  , wordRow fun w => .ldy (.mem (.absX w))
  , wordRow fun w => .lda (.mem (.absX w))
  , wordRow fun w => .ldx (.mem (.absY w))
  , .three fun z d => .bbs3 z d ]

/-- Row Cx of the opcode map (R53). -/
def opcodeRowC : List Row :=
  [ .two fun v => .cpy (.imm v)
  , .two fun z => .cmp (.mem (.indX z))
  , .two fun b => .reserved 0xC2#8 [b]
  , .one (.reserved 0xC3#8 [])
  , .two fun z => .cpy (.mem (.zp z))
  , .two fun z => .cmp (.mem (.zp z))
  , .two fun z => .dec (.mem (.zp z))
  , .two fun z => .smb4 z
  , .one .iny
  , .two fun v => .cmp (.imm v)
  , .one .dex
  , .one .wai
  , wordRow fun w => .cpy (.mem (.abs w))
  , wordRow fun w => .cmp (.mem (.abs w))
  , wordRow fun w => .dec (.mem (.abs w))
  , .three fun z d => .bbs4 z d ]

/-- Row Dx of the opcode map (R53). -/
def opcodeRowD : List Row :=
  [ .two fun d => .bne d
  , .two fun z => .cmp (.mem (.indY z))
  , .two fun z => .cmp (.mem (.zpInd z))
  , .one (.reserved 0xD3#8 [])
  , .two fun b => .reserved 0xD4#8 [b]
  , .two fun z => .cmp (.mem (.zpX z))
  , .two fun z => .dec (.mem (.zpX z))
  , .two fun z => .smb5 z
  , .one .cld
  , wordRow fun w => .cmp (.mem (.absY w))
  , .one .phx
  , .one .stp
  , .three fun b b' => .reserved 0xDC#8 [b, b']
  , wordRow fun w => .cmp (.mem (.absX w))
  , wordRow fun w => .dec (.mem (.absX w))
  , .three fun z d => .bbs5 z d ]

/-- Row Ex of the opcode map (R53). -/
def opcodeRowE : List Row :=
  [ .two fun v => .cpx (.imm v)
  , .two fun z => .sbc (.mem (.indX z))
  , .two fun b => .reserved 0xE2#8 [b]
  , .one (.reserved 0xE3#8 [])
  , .two fun z => .cpx (.mem (.zp z))
  , .two fun z => .sbc (.mem (.zp z))
  , .two fun z => .inc (.mem (.zp z))
  , .two fun z => .smb6 z
  , .one .inx
  , .two fun v => .sbc (.imm v)
  , .one .nop
  , .one (.reserved 0xEB#8 [])
  , wordRow fun w => .cpx (.mem (.abs w))
  , wordRow fun w => .sbc (.mem (.abs w))
  , wordRow fun w => .inc (.mem (.abs w))
  , .three fun z d => .bbs6 z d ]

/-- Row Fx of the opcode map (R53). -/
def opcodeRowF : List Row :=
  [ .two fun d => .beq d
  , .two fun z => .sbc (.mem (.indY z))
  , .two fun z => .sbc (.mem (.zpInd z))
  , .one (.reserved 0xF3#8 [])
  , .two fun b => .reserved 0xF4#8 [b]
  , .two fun z => .sbc (.mem (.zpX z))
  , .two fun z => .inc (.mem (.zpX z))
  , .two fun z => .smb7 z
  , .one .sed
  , wordRow fun w => .sbc (.mem (.absY w))
  , .one .plx
  , .one (.reserved 0xFB#8 [])
  , .three fun b b' => .reserved 0xFC#8 [b, b']
  , wordRow fun w => .sbc (.mem (.absX w))
  , wordRow fun w => .inc (.mem (.absX w))
  , .three fun z d => .bbs7 z d ]

/-- The opcode map, all 256 cells in the order of the byte (R53). -/
def opcodeMap : List Row :=
  opcodeRow0 ++ opcodeRow1 ++ opcodeRow2 ++ opcodeRow3 ++ opcodeRow4 ++ opcodeRow5 ++ opcodeRow6 ++ opcodeRow7 ++
  opcodeRow8 ++ opcodeRow9 ++ opcodeRowA ++ opcodeRowB ++ opcodeRowC ++ opcodeRowD ++ opcodeRowE ++ opcodeRowF

/-- The cell of an opcode byte. The map has 256 cells, so the default is never read. -/
def rowOf (op : Byte) : Row := opcodeMap.getD op.toNat (.one (.reserved op []))

/-- The instruction at the front of some bytes, and the bytes after it. -/
def decode : List Byte → Except DecodeError (Instr × List Byte)
  | [] => .error .noByte
  | op :: rest =>
    match rowOf op, rest with
    | .one i, rest => .ok (i, rest)
    | .two f, b1 :: rest => .ok (f b1, rest)
    | .three f, b1 :: b2 :: rest => .ok (f b1 b2, rest)
    | _, _ => .error (.truncated op)

/-! ## The encoder -/

/-- A row of R71: the opcode byte of each mode a mnemonic has. -/
structure OpcodeSet where
  acc : Option Byte := none
  imm : Option Byte := none
  zp : Option Byte := none
  zpX : Option Byte := none
  zpY : Option Byte := none
  abs : Option Byte := none
  absX : Option Byte := none
  absY : Option Byte := none
  indX : Option Byte := none
  indY : Option Byte := none
  zpInd : Option Byte := none
deriving DecidableEq, Repr

/-- An opcode followed by a word, low byte first (R32, R51). -/
def wordBytes (op : Byte) (w : Word) : List Byte := [op, loByte w, hiByte w]

/-- The bytes of an instruction with a memory operand. -/
def OpcodeSet.ofMem (t : OpcodeSet) : MemArg → Option (List Byte)
  | .zp z => t.zp.map fun op => [op, z]
  | .zpX z => t.zpX.map fun op => [op, z]
  | .zpY z => t.zpY.map fun op => [op, z]
  | .abs w => t.abs.map fun op => wordBytes op w
  | .absX w => t.absX.map fun op => wordBytes op w
  | .absY w => t.absY.map fun op => wordBytes op w
  | .indX z => t.indX.map fun op => [op, z]
  | .indY z => t.indY.map fun op => [op, z]
  | .zpInd z => t.zpInd.map fun op => [op, z]

/-- The bytes of an instruction with a read operand. -/
def OpcodeSet.ofRead (t : OpcodeSet) : ReadArg → Option (List Byte)
  | .imm v => t.imm.map fun op => [op, v]
  | .mem m => t.ofMem m

/-- The bytes of an instruction with a read-modify-write operand. -/
def OpcodeSet.ofMod (t : OpcodeSet) : ModArg → Option (List Byte)
  | .acc => t.acc.map fun op => [op]
  | .mem m => t.ofMem m

/-- LDA (R71). -/
def opcodesLda : OpcodeSet :=
  { imm := some 0xA9#8, zp := some 0xA5#8, zpX := some 0xB5#8, abs := some 0xAD#8, absX := some 0xBD#8, absY := some 0xB9#8, indX := some 0xA1#8, indY := some 0xB1#8, zpInd := some 0xB2#8 }

/-- LDX (R71). -/
def opcodesLdx : OpcodeSet :=
  { imm := some 0xA2#8, zp := some 0xA6#8, zpY := some 0xB6#8, abs := some 0xAE#8, absY := some 0xBE#8 }

/-- LDY (R71). -/
def opcodesLdy : OpcodeSet :=
  { imm := some 0xA0#8, zp := some 0xA4#8, zpX := some 0xB4#8, abs := some 0xAC#8, absX := some 0xBC#8 }

/-- STA (R71). -/
def opcodesSta : OpcodeSet :=
  { zp := some 0x85#8, zpX := some 0x95#8, abs := some 0x8D#8, absX := some 0x9D#8, absY := some 0x99#8, indX := some 0x81#8, indY := some 0x91#8, zpInd := some 0x92#8 }

/-- STX (R71). -/
def opcodesStx : OpcodeSet :=
  { zp := some 0x86#8, zpY := some 0x96#8, abs := some 0x8E#8 }

/-- STY (R71). -/
def opcodesSty : OpcodeSet :=
  { zp := some 0x84#8, zpX := some 0x94#8, abs := some 0x8C#8 }

/-- STZ (R71). -/
def opcodesStz : OpcodeSet :=
  { zp := some 0x64#8, zpX := some 0x74#8, abs := some 0x9C#8, absX := some 0x9E#8 }

/-- ASL (R71). -/
def opcodesAsl : OpcodeSet :=
  { acc := some 0x0A#8, zp := some 0x06#8, zpX := some 0x16#8, abs := some 0x0E#8, absX := some 0x1E#8 }

/-- LSR (R71). -/
def opcodesLsr : OpcodeSet :=
  { acc := some 0x4A#8, zp := some 0x46#8, zpX := some 0x56#8, abs := some 0x4E#8, absX := some 0x5E#8 }

/-- ROL (R71). -/
def opcodesRol : OpcodeSet :=
  { acc := some 0x2A#8, zp := some 0x26#8, zpX := some 0x36#8, abs := some 0x2E#8, absX := some 0x3E#8 }

/-- ROR (R71). -/
def opcodesRor : OpcodeSet :=
  { acc := some 0x6A#8, zp := some 0x66#8, zpX := some 0x76#8, abs := some 0x6E#8, absX := some 0x7E#8 }

/-- AND (R71). -/
def opcodesAnd : OpcodeSet :=
  { imm := some 0x29#8, zp := some 0x25#8, zpX := some 0x35#8, abs := some 0x2D#8, absX := some 0x3D#8, absY := some 0x39#8, indX := some 0x21#8, indY := some 0x31#8, zpInd := some 0x32#8 }

/-- BIT (R71). -/
def opcodesBit : OpcodeSet :=
  { imm := some 0x89#8, zp := some 0x24#8, zpX := some 0x34#8, abs := some 0x2C#8, absX := some 0x3C#8 }

/-- EOR (R71). -/
def opcodesEor : OpcodeSet :=
  { imm := some 0x49#8, zp := some 0x45#8, zpX := some 0x55#8, abs := some 0x4D#8, absX := some 0x5D#8, absY := some 0x59#8, indX := some 0x41#8, indY := some 0x51#8, zpInd := some 0x52#8 }

/-- ORA (R71). -/
def opcodesOra : OpcodeSet :=
  { imm := some 0x09#8, zp := some 0x05#8, zpX := some 0x15#8, abs := some 0x0D#8, absX := some 0x1D#8, absY := some 0x19#8, indX := some 0x01#8, indY := some 0x11#8, zpInd := some 0x12#8 }

/-- TRB (R71). -/
def opcodesTrb : OpcodeSet :=
  { zp := some 0x14#8, abs := some 0x1C#8 }

/-- TSB (R71). -/
def opcodesTsb : OpcodeSet :=
  { zp := some 0x04#8, abs := some 0x0C#8 }

/-- ADC (R71). -/
def opcodesAdc : OpcodeSet :=
  { imm := some 0x69#8, zp := some 0x65#8, zpX := some 0x75#8, abs := some 0x6D#8, absX := some 0x7D#8, absY := some 0x79#8, indX := some 0x61#8, indY := some 0x71#8, zpInd := some 0x72#8 }

/-- SBC (R71). -/
def opcodesSbc : OpcodeSet :=
  { imm := some 0xE9#8, zp := some 0xE5#8, zpX := some 0xF5#8, abs := some 0xED#8, absX := some 0xFD#8, absY := some 0xF9#8, indX := some 0xE1#8, indY := some 0xF1#8, zpInd := some 0xF2#8 }

/-- CMP (R71). -/
def opcodesCmp : OpcodeSet :=
  { imm := some 0xC9#8, zp := some 0xC5#8, zpX := some 0xD5#8, abs := some 0xCD#8, absX := some 0xDD#8, absY := some 0xD9#8, indX := some 0xC1#8, indY := some 0xD1#8, zpInd := some 0xD2#8 }

/-- CPX (R71). -/
def opcodesCpx : OpcodeSet :=
  { imm := some 0xE0#8, zp := some 0xE4#8, abs := some 0xEC#8 }

/-- CPY (R71). -/
def opcodesCpy : OpcodeSet :=
  { imm := some 0xC0#8, zp := some 0xC4#8, abs := some 0xCC#8 }

/-- INC (R71). -/
def opcodesInc : OpcodeSet :=
  { acc := some 0x1A#8, zp := some 0xE6#8, zpX := some 0xF6#8, abs := some 0xEE#8, absX := some 0xFE#8 }

/-- DEC (R71). -/
def opcodesDec : OpcodeSet :=
  { acc := some 0x3A#8, zp := some 0xC6#8, zpX := some 0xD6#8, abs := some 0xCE#8, absX := some 0xDE#8 }

/-- The bytes of an instruction in the order they stand in memory (R71, R90), none for a term that is no instruction. -/
def encode : Instr → Option (List Byte)
  | .lda o => opcodesLda.ofRead o
  | .ldx o => opcodesLdx.ofRead o
  | .ldy o => opcodesLdy.ofRead o
  | .sta m => opcodesSta.ofMem m
  | .stx m => opcodesStx.ofMem m
  | .sty m => opcodesSty.ofMem m
  | .stz m => opcodesStz.ofMem m
  | .asl o => opcodesAsl.ofMod o
  | .lsr o => opcodesLsr.ofMod o
  | .rol o => opcodesRol.ofMod o
  | .ror o => opcodesRor.ofMod o
  | .and o => opcodesAnd.ofRead o
  | .bit o => opcodesBit.ofRead o
  | .eor o => opcodesEor.ofRead o
  | .ora o => opcodesOra.ofRead o
  | .trb m => opcodesTrb.ofMem m
  | .tsb m => opcodesTsb.ofMem m
  | .adc o => opcodesAdc.ofRead o
  | .sbc o => opcodesSbc.ofRead o
  | .cmp o => opcodesCmp.ofRead o
  | .cpx o => opcodesCpx.ofRead o
  | .cpy o => opcodesCpy.ofRead o
  | .inc o => opcodesInc.ofMod o
  | .dec o => opcodesDec.ofMod o
  | .tax => some [0xAA#8]
  | .tay => some [0xA8#8]
  | .tsx => some [0xBA#8]
  | .txa => some [0x8A#8]
  | .txs => some [0x9A#8]
  | .tya => some [0x98#8]
  | .pha => some [0x48#8]
  | .php => some [0x08#8]
  | .phx => some [0xDA#8]
  | .phy => some [0x5A#8]
  | .pla => some [0x68#8]
  | .plp => some [0x28#8]
  | .plx => some [0xFA#8]
  | .ply => some [0x7A#8]
  | .nop => some [0xEA#8]
  | .inx => some [0xE8#8]
  | .iny => some [0xC8#8]
  | .dex => some [0xCA#8]
  | .dey => some [0x88#8]
  | .rti => some [0x40#8]
  | .rts => some [0x60#8]
  | .brk => some [0x00#8]
  | .stp => some [0xDB#8]
  | .wai => some [0xCB#8]
  | .clc => some [0x18#8]
  | .cld => some [0xD8#8]
  | .cli => some [0x58#8]
  | .clv => some [0xB8#8]
  | .sec => some [0x38#8]
  | .sed => some [0xF8#8]
  | .sei => some [0x78#8]
  | .rmb0 z => some [0x07#8, z]
  | .rmb1 z => some [0x17#8, z]
  | .rmb2 z => some [0x27#8, z]
  | .rmb3 z => some [0x37#8, z]
  | .rmb4 z => some [0x47#8, z]
  | .rmb5 z => some [0x57#8, z]
  | .rmb6 z => some [0x67#8, z]
  | .rmb7 z => some [0x77#8, z]
  | .smb0 z => some [0x87#8, z]
  | .smb1 z => some [0x97#8, z]
  | .smb2 z => some [0xA7#8, z]
  | .smb3 z => some [0xB7#8, z]
  | .smb4 z => some [0xC7#8, z]
  | .smb5 z => some [0xD7#8, z]
  | .smb6 z => some [0xE7#8, z]
  | .smb7 z => some [0xF7#8, z]
  | .bcc d => some [0x90#8, d]
  | .bcs d => some [0xB0#8, d]
  | .beq d => some [0xF0#8, d]
  | .bmi d => some [0x30#8, d]
  | .bne d => some [0xD0#8, d]
  | .bpl d => some [0x10#8, d]
  | .bvc d => some [0x50#8, d]
  | .bvs d => some [0x70#8, d]
  | .bra d => some [0x80#8, d]
  | .bbr0 z d => some [0x0F#8, z, d]
  | .bbr1 z d => some [0x1F#8, z, d]
  | .bbr2 z d => some [0x2F#8, z, d]
  | .bbr3 z d => some [0x3F#8, z, d]
  | .bbr4 z d => some [0x4F#8, z, d]
  | .bbr5 z d => some [0x5F#8, z, d]
  | .bbr6 z d => some [0x6F#8, z, d]
  | .bbr7 z d => some [0x7F#8, z, d]
  | .bbs0 z d => some [0x8F#8, z, d]
  | .bbs1 z d => some [0x9F#8, z, d]
  | .bbs2 z d => some [0xAF#8, z, d]
  | .bbs3 z d => some [0xBF#8, z, d]
  | .bbs4 z d => some [0xCF#8, z, d]
  | .bbs5 z d => some [0xDF#8, z, d]
  | .bbs6 z d => some [0xEF#8, z, d]
  | .bbs7 z d => some [0xFF#8, z, d]
  | .jmp (.abs w) => some (wordBytes 0x4C#8 w)
  | .jmp (.ind w) => some (wordBytes 0x6C#8 w)
  | .jmp (.absX w) => some (wordBytes 0x7C#8 w)
  | .jsr w => some (wordBytes 0x20#8 w)
  | .reserved op skipped => if reservedLength op = some (1 + skipped.length) then some (op :: skipped) else none

/-! ## The host's word -/

/-- The first three bytes of an instruction word numbered with the first byte in bits 7:0, bits from `nbits` up being 0. -/
def tableWordBytes (nbits w : Nat) : List Byte :=
  let v := w % 2 ^ nbits
  [BitVec.ofNat 8 v, BitVec.ofNat 8 (v / 256), BitVec.ofNat 8 (v / 65536)]

/-- The instruction the decoder reads from an instruction word of spec/opcode_table.json. -/
def decodeTableWord (nbits w : Nat) : Option Instr :=
  match decode (tableWordBytes nbits w) with
  | .ok (i, _) => some i
  | .error _ => none

end Sys2Proof
end

