-- ==== Sys2Proof/Config.lean ====
section
/-! DEFINITION. What the spec leaves to the model's configuration (00_scope.md section 5, 92_eei_decisions.md "Open
parameters"), and the one free value. The fourth open parameter, MemMap (D7), is a field of State (log 8). -/

namespace Sys2Proof.Config

/-- RESERVED_OPCODE_POLICY (30_encoding.md R90, D3): what a step whose opcode byte is reserved does. -/
inductive ReservedPolicy where
  /-- the model refuses the step (the spec's default) -/
  | refuse
  /-- the step advances PC by the byte's length and does nothing else -/
  | nop
deriving DecidableEq, Repr

/-- JMP_IND_PAGE_END (46_flow.md R202, D14): what JMP Indirect does when its pointer is the last byte of a page. -/
inductive JmpIndPolicy where
  /-- the model refuses the step (the spec's default) -/
  | refuse
  /-- the pointer's high byte comes from the next page, as R201's formula says -/
  | cmos
deriving DecidableEq, Repr

/-- DECIMAL_POLICY (44_math.md R162, R163, D13): what ADC and SBC do with P.D = 1. -/
inductive DecimalPolicy where
  /-- valid BCD operands: A, C, N, Z by the algorithm, V `any`; invalid BCD: A, N, V, Z, C all `any` (the spec's default) -/
  | validBcdOnly
  /-- the full sequences of R162 and R163 for every operand and flag -/
  | algorithm
  /-- ADC and SBC with P.D = 1 are refused -/
  | refuse
deriving DecidableEq, Repr

/-- DESIGN CHOICE (log 2, unsafe): a reserved byte executes as the no-operation that R90 describes, not as a refusal. -/
def reservedOpcodePolicy : ReservedPolicy := .nop

/-- DESIGN CHOICE (log 3, unsafe): JMP ($xxFF) reads its high byte from the next page, not a refusal. -/
def jmpIndPageEnd : JmpIndPolicy := .cmos

/-- The spec's default (D13, log 4): what the source does not determine in decimal mode is a free value. -/
def decimalPolicy : DecimalPolicy := .validBcdOnly

/-- The free values (`any`, 00_scope.md R4): the byte of draw number `n`. It has no body, so nothing can be proved of a
value of it; each draw uses a number not used before (State.draws, log 5). -/
opaque freeByte : Nat → Byte

end Sys2Proof.Config
end

