-- ==== Sys2Proof/Machine/Memory.lean ====
section
/-! DEFINITION. The bytes of the address space (20_memory.md R30) as a list of cells in one canonical form, and the memory map
(20_memory.md R33, D7). Addresses are below 65536; what a region does on an access is in Ops.lean. -/

namespace Sys2Proof.Machine

/-- The number of addresses (R30). -/
def addressCount : Nat := 65536

/-- What an address that is not listed holds: $00. DESIGN CHOICE (log 7, unsafe): the spec leaves RAM at power-on open and uses
zero-filled RAM in its tests (D7). -/
def unlistedByte : Byte := 0#8

/-- The contents of memory: the listed addresses and their bytes. -/
abbrev Memory := List Host.Cell

/-- The byte an address holds. -/
def Memory.read : Memory → Nat → Byte
  | [], _ => unlistedByte
  | (b, v) :: rest, a => if a = b then v else Memory.read rest a

/-- The cells without those of one address. -/
def Memory.erase (m : Memory) (a : Nat) : Memory := m.filter fun c => c.1 != a

/-- Put a cell before the first cell of a higher address. -/
def Memory.insert (c : Host.Cell) : Memory → Memory
  | [] => [c]
  | d :: rest => if c.1 < d.1 then c :: d :: rest else d :: Memory.insert c rest

/-- Replace the byte at an address; an address that comes to hold the unlisted byte is no longer listed. -/
def Memory.write (m : Memory) (a : Nat) (v : Byte) : Memory :=
  if v = unlistedByte then m.erase a else Memory.insert (a, v) (m.erase a)

/-- The canonical form: addresses strictly rising, within the address space, none listed with the unlisted byte. -/
abbrev Memory.wf (m : Memory) : Prop :=
  m.Pairwise (fun c d => c.1 < d.1) ∧ ∀ c ∈ m, c.1 < addressCount ∧ c.2 ≠ unlistedByte

/-- What the platform has put at an address (R33). -/
inductive Region where
  /-- reads give the byte last written, writes replace it -/
  | ram
  /-- reads give the launch contents, writes do nothing -/
  | rom
  /-- reads are answered by the device (`any`), writes are handed to it -/
  | device
  /-- reads give `any`, writes do nothing -/
  | unmapped
deriving DecidableEq, Repr

/-- A row of a memory map: `size` addresses from `base` are of one kind. -/
structure MapRow where
  base : Nat
  size : Nat
  region : Region
deriving DecidableEq, Repr

/-- The row covers the address. -/
def MapRow.covers (r : MapRow) (a : Nat) : Bool := r.base ≤ a && a < r.base + r.size

/-- A memory map (the parameter MemMap, D7). -/
abbrev MemoryMap := List MapRow

/-- The region of an address: that of the first row that covers it, RAM where none does (log 8). -/
def MemoryMap.regionAt : MemoryMap → Nat → Region
  | [], _ => .ram
  | r :: rest, a => if r.covers a then r.region else MemoryMap.regionAt rest a

end Sys2Proof.Machine
end

