-- ==== Sys2Proof/Machine/State.lean ====
section
/-! DEFINITION. The state of the machine: all the spec gives it (10_state.md), as plain data; the reasons a step can stop;
the state after reset. INVENTORY.md lists every field with its rule and reset value. -/

namespace Sys2Proof.Machine

/-- The six bits of flag state of the processor status register P (10_state.md R14). Bits 5 and 4 of P hold no state; the byte
image of P is in Flags.lean. -/
structure Flags where
  /-- P.N, negative: copy of bit 7 of the last result that sets it -/
  n : Bool
  /-- P.V, overflow -/
  v : Bool
  /-- P.D, decimal mode -/
  d : Bool
  /-- P.I, IRQ disabled -/
  i : Bool
  /-- P.Z, zero -/
  z : Bool
  /-- P.C, carry -/
  c : Bool
deriving DecidableEq, Repr

/-- What the environment does to the three inputs at one instruction boundary (10_state.md R18, 60_exceptions.md R231). -/
structure Inputs where
  /-- the level of irq_line from this boundary on -/
  irqLine : Bool
  /-- the NMI input falls from high to low -/
  nmiEdge : Bool
  /-- the reset input is asserted and released at the boundary -/
  reset : Bool
  /-- the reset input is asserted and released inside the step that begins at the boundary (R260, log 13) -/
  resetInside : Bool := false
deriving DecidableEq, Repr

/-- An access to a device region (20_memory.md R33): a read with the byte the device answered, or a byte handed to it. -/
inductive DeviceAccess where
  | read (addr : Word) (answer : Byte)
  | write (addr : Word) (value : Byte)
deriving DecidableEq, Repr

/-- The state of the machine. Fields from `inputs` on are the model's own (INVENTORY.md). -/
structure State where
  /-- A, the accumulator (R10) -/
  a : Byte
  /-- X, index register (R10) -/
  x : Byte
  /-- Y, index register (R10) -/
  y : Byte
  /-- S, the stack pointer; the stack byte is at $0100 + S (R12) -/
  sp : Byte
  /-- PC, the program counter (R13) -/
  pc : Word
  /-- P, the six flags (R14) -/
  p : Flags
  /-- the bytes of the address space (R30); of RAM and ROM regions these are what a read gives (R33) -/
  mem : Memory
  /-- MemMap, the regions of the address space (R33, D7); no step changes it -/
  memMap : MemoryMap
  /-- an NMI edge was seen and has not been serviced (R18) -/
  nmiPending : Bool
  /-- WAI was executed and the processor has not been woken (R18, R245) -/
  waiting : Bool
  /-- STP was executed (R18, R246) -/
  stopped : Bool
  /-- the level of the IRQ input (R18, R234) -/
  irqLine : Bool
  /-- the instruction just executed was CLI, SEI or PLP and changed P.I (R241) -/
  maskEdge : Bool
  /-- the coming changes of the inputs, one record a step (R231, log 11) -/
  inputs : List Inputs
  /-- the device accesses made so far, newest first (R33, R40, log 9) -/
  deviceLog : List DeviceAccess
  /-- how many free values have been drawn (log 5) -/
  draws : Nat
deriving DecidableEq, Repr

/-- The faults of the hardware: none. The processor has no synchronous fault (60_exceptions.md R232), and every address
exists (20_memory.md R33, D25), so nothing raises one (safe). -/
inductive Fault
deriving DecidableEq, Repr

/-- Why the model gives a step no meaning. -/
inductive Refusal where
  /-- raised by an arm of exec whose instruction has no meaning yet; no arm is such (safe) -/
  | notModelled (mnemonic : String)
  /-- raised by a reserved opcode byte under RESERVED_OPCODE_POLICY = refuse, which this model does not choose (safe; D3) -/
  | reservedOpcode
  /-- raised by JMP ($xxFF) under JMP_IND_PAGE_END = refuse, which this model does not choose (safe; D14) -/
  | jmpIndirectPageEnd
  /-- raised by ADC and SBC in decimal mode under DECIMAL_POLICY = refuse, which this model does not choose (safe; D13) -/
  | decimalMode
deriving DecidableEq, Repr

/-- What a step or an instruction gives: a next state, a fault (there are none), or a refusal. -/
abbrev StepResult := Host.Outcome State Fault Refusal

/-! ## Updates, one a field; Laws/State.lean has what each leaves -/

/-- Replace `a`, and nothing else. -/
def State.setA (s : State) (v : Byte) : State := { s with a := v }

/-- Replace `x`, and nothing else. -/
def State.setX (s : State) (v : Byte) : State := { s with x := v }

/-- Replace `y`, and nothing else. -/
def State.setY (s : State) (v : Byte) : State := { s with y := v }

/-- Replace `sp`, and nothing else. -/
def State.setSp (s : State) (v : Byte) : State := { s with sp := v }

/-- Replace `pc`, and nothing else. -/
def State.setPc (s : State) (v : Word) : State := { s with pc := v }

/-- Replace `p`, and nothing else. -/
def State.setP (s : State) (v : Flags) : State := { s with p := v }

/-- Replace `mem`, and nothing else. -/
def State.setMem (s : State) (v : Memory) : State := { s with mem := v }

/-- Replace `nmiPending`, and nothing else. -/
def State.setNmiPending (s : State) (v : Bool) : State := { s with nmiPending := v }

/-- Replace `waiting`, and nothing else. -/
def State.setWaiting (s : State) (v : Bool) : State := { s with waiting := v }

/-- Replace `stopped`, and nothing else. -/
def State.setStopped (s : State) (v : Bool) : State := { s with stopped := v }

/-- Replace `irqLine`, and nothing else. -/
def State.setIrqLine (s : State) (v : Bool) : State := { s with irqLine := v }

/-- Replace `maskEdge`, and nothing else. -/
def State.setMaskEdge (s : State) (v : Bool) : State := { s with maskEdge := v }

/-- Replace `inputs`, and nothing else. -/
def State.setInputs (s : State) (v : List Inputs) : State := { s with inputs := v }

/-- Replace `deviceLog`, and nothing else. -/
def State.setDeviceLog (s : State) (v : List DeviceAccess) : State := { s with deviceLog := v }

/-- Replace `draws`, and nothing else. -/
def State.setDraws (s : State) (v : Nat) : State := { s with draws := v }

/-- The machine right after reset, before the first instruction (10_state.md R19, 70_reset_and_hazards.md R260), on a memory
with nothing listed. Exact by the spec: PC (the word at $FFFC, here $0000), I = 1, D = 0, waiting = stopped = 0. DESIGN CHOICE
(logs 5 to 9 and 11, unsafe): every other value; S is 3 below an unspecified value taken as 0. -/
def State.reset : State :=
  { a := 0#8
    x := 0#8
    y := 0#8
    sp := 0xFD#8
    pc := 0x0000#16
    p := { n := false, v := false, d := false, i := true, z := false, c := false }
    mem := []
    memMap := []
    nmiPending := false
    waiting := false
    stopped := false
    irqLine := false
    maskEdge := false
    inputs := []
    deviceLog := []
    draws := 0 }

end Sys2Proof.Machine
end

