-- ==== Sys2Proof/Machine/Flags.lean ====
section
/-! DEFINITION. The flag computations: the byte image of P (10_state.md R15), the N-and-Z convention (R16), and the results and
flags of the arithmetic, compare, shift and bit instructions (43_logic.md, 44_math.md). Pure functions of bytes and flags. -/

namespace Sys2Proof.Machine

/-! ## P -/

/-- `PImage(b)`: `N:V:1:b:D:I:Z:C` (R15). -/
def Flags.image (p : Flags) (b : Bool) : Byte :=
  BitVec.ofBool p.n ++ BitVec.ofBool p.v ++ 1#1 ++ BitVec.ofBool b ++
  BitVec.ofBool p.d ++ BitVec.ofBool p.i ++ BitVec.ofBool p.z ++ BitVec.ofBool p.c

/-- The six flags loaded from a byte; bits 5 and 4 are ignored (R15). -/
def Flags.ofByte (v : Byte) : Flags :=
  { n := bitOf v 7, v := bitOf v 6, d := bitOf v 3, i := bitOf v 2, z := bitOf v 1, c := bitOf v 0 }

/-- `SetNZ(v)` (R16). -/
def Flags.setNZ (p : Flags) (v : Byte) : Flags := { p with n := bitOf v 7, z := v == 0#8 }

/-! ## ADC and SBC -/

/-- What the adder gives: the byte, the carry out, and the signed overflow. -/
structure Sum where
  value : Byte
  carry : Bool
  overflow : Bool
deriving DecidableEq, Repr

/-- N, V, Z, C after ADC or SBC (R160 to R163); D and I unchanged. -/
def Flags.ofSum (p : Flags) (r : Sum) : Flags := { p.setNZ r.value with c := r.carry, v := r.overflow }

/-- Binary addition with carry (R160). -/
def adcBinary (a m : Byte) (c : Bool) : Sum :=
  let t := a.toNat + m.toNat + c.toNat
  let r := BitVec.ofNat 8 t
  { value := r, carry := decide (256 ≤ t), overflow := bitOf ((a ^^^ r) &&& (m ^^^ r)) 7 }

/-- Binary subtraction with borrow: addition of the complement (R161). -/
def sbcBinary (a m : Byte) (c : Bool) : Sum := adcBinary a (m ^^^ 0xFF#8) c

/-- The 65C02's decimal addition, for every operand (R162's algorithm). -/
def adcDecimal (a m : Byte) (c : Bool) : Sum :=
  let al0 := (a &&& 0x0F#8).toNat + (m &&& 0x0F#8).toNat + c.toNat
  let al := if 0x0A ≤ al0 then (al0 + 0x06) % 0x10 + 0x10 else al0
  let t := (a &&& 0xF0#8).toNat + (m &&& 0xF0#8).toNat + al
  let tv : Int := (a &&& 0xF0#8).toInt + (m &&& 0xF0#8).toInt + al
  let t' := if 0xA0 ≤ t then t + 0x60 else t
  { value := BitVec.ofNat 8 t', carry := decide (0x100 ≤ t'), overflow := decide (tv < -128 ∨ 127 < tv) }

/-- The 65C02's decimal subtraction, for every operand (R163's algorithm); carry and overflow are the binary ones. -/
def sbcDecimal (a m : Byte) (c : Bool) : Sum :=
  let al : Int := (a &&& 0x0F#8).toNat - (m &&& 0x0F#8).toNat + c.toNat - 1
  let t : Int := a.toNat - m.toNat + c.toNat - 1
  let t' := if t < 0 then t - 0x60 else t
  let t'' := if al < 0 then t' - 0x06 else t'
  { sbcBinary a m c with value := BitVec.ofInt 8 t'' }

/-- Both nibbles are 0..9: a valid BCD byte (R162). -/
def validBcd (v : Byte) : Bool :=
  decide ((v &&& 0x0F#8).toNat ≤ 9) && decide ((v &&& 0xF0#8).toNat ≤ 0x90)

/-! ## Compare, test -/

/-- The flags of CMP, CPX, CPY for a register and an operand (R164): no borrow in, unsigned carry. -/
def Flags.compare (p : Flags) (reg m : Byte) : Flags :=
  { p with c := decide (m.toNat ≤ reg.toNat), z := reg == m, n := bitOf (reg - m) 7 }

/-- Z from `A & M` (R146, R150, R151). -/
def Flags.testZ (p : Flags) (a m : Byte) : Flags := { p with z := a &&& m == 0#8 }

/-- The flags of BIT in its memory modes: Z from `A & M`, N and V from M (R146). -/
def Flags.bitTest (p : Flags) (a m : Byte) : Flags := { p.testZ a m with n := bitOf m 7, v := bitOf m 6 }

/-! ## Shifts, increments: the new byte and flags of a read-modify-write instruction -/

/-- ASL (R141). -/
def aslOp (m : Byte) (p : Flags) : Byte × Flags :=
  let r := m <<< 1
  (r, { p with c := bitOf m 7 }.setNZ r)

/-- LSR (R142). -/
def lsrOp (m : Byte) (p : Flags) : Byte × Flags :=
  let r := m >>> 1
  (r, { p with c := bitOf m 0 }.setNZ r)

/-- ROL: the old carry enters bit 0 (R143). -/
def rolOp (m : Byte) (p : Flags) : Byte × Flags :=
  let r := (m <<< 1) ||| (BitVec.ofBool p.c).setWidth 8
  (r, { p with c := bitOf m 7 }.setNZ r)

/-- ROR: the old carry enters bit 7 (R144). -/
def rorOp (m : Byte) (p : Flags) : Byte × Flags :=
  let r := (m >>> 1) ||| ((BitVec.ofBool p.c).setWidth 8 <<< 7)
  (r, { p with c := bitOf m 0 }.setNZ r)

/-- INC: C and V are not changed (R167). -/
def incOp (m : Byte) (p : Flags) : Byte × Flags := (m + 1, p.setNZ (m + 1))

/-- DEC: C and V are not changed (R170). -/
def decOp (m : Byte) (p : Flags) : Byte × Flags := (m - 1, p.setNZ (m - 1))

/-- TRB with the mask `a` (R150). -/
def trbOp (a m : Byte) (p : Flags) : Byte × Flags := (m &&& ~~~a, p.testZ a m)

/-- TSB with the mask `a` (R151). -/
def tsbOp (a m : Byte) (p : Flags) : Byte × Flags := (m ||| a, p.testZ a m)

/-- RMBn: no flag (R153). -/
def rmbOp (n : Nat) (m : Byte) (p : Flags) : Byte × Flags := (m &&& ~~~(bitMask n), p)

/-- SMBn: no flag (R154). -/
def smbOp (n : Nat) (m : Byte) (p : Flags) : Byte × Flags := (m ||| bitMask n, p)

end Sys2Proof.Machine
end

