-- ==== Sys2Proof/Machine/Ops.lean ====
section
/-! DEFINITION. The named operations over memory, the stack and the exception registers (00_scope.md R4): MemRead, MemWrite,
Read16, Read16zp, Push8, Pull8, a draw of `any`, the exception entry (60_exceptions.md R236), the return from it
(46_flow.md R204), the reset sequence (70_reset_and_hazards.md R260). A read gives its byte and the state after it, for a read
of a device or of unmapped space draws a free value (20_memory.md R33). -/

namespace Sys2Proof.Machine

/-! ## Free values -/

/-- Draw `any`: a byte nothing constrains, and the state that has drawn it (R4, log 5). -/
def draw (s : State) : Byte × State := (Config.freeByte s.draws, s.setDraws (s.draws + 1))

/-- Draw one free bit. -/
def drawBit (s : State) : Bool × State := (bitOf (draw s).1 0, (draw s).2)

/-! ## Memory accesses: one byte each (20_memory.md R33, R34) -/

/-- `MemRead(addr, 1)` (R33). -/
def busRead (a : Word) (s : State) : Byte × State :=
  match s.memMap.regionAt a.toNat with
  | .ram => (s.mem.read a.toNat, s)
  | .rom => (s.mem.read a.toNat, s)
  | .device => let r := draw s; (r.1, r.2.setDeviceLog (.read a r.1 :: s.deviceLog))
  | .unmapped => draw s

/-- `MemWrite(addr, 1, v)` (R33). -/
def busWrite (a : Word) (v : Byte) (s : State) : State :=
  match s.memMap.regionAt a.toNat with
  | .ram => s.setMem (s.mem.write a.toNat v)
  | .rom => s
  | .device => s.setDeviceLog (.write a v :: s.deviceLog)
  | .unmapped => s

/-- `Read16(a)`: low byte first, the second address modulo 65536 (R4, R32). -/
def read16 (a : Word) (s : State) : Word × State :=
  let lo := busRead a s
  let hi := busRead (a + 1) lo.2
  (word hi.1 lo.1, hi.2)

/-- `Read16zp(z)`: low byte first, the second address wraps inside page zero (R4). -/
def read16zp (z : Byte) (s : State) : Word × State :=
  let lo := busRead (zext16 z) s
  let hi := busRead (zext16 (z + 1)) lo.2
  (word hi.1 lo.1, hi.2)

/-! ## The stack (10_state.md R12) -/

/-- The address of the stack byte that a value of S designates: `0x0100 | S` (R12). -/
def stackAddr (sp : Byte) : Word := word 0x01#8 sp

/-- `Push8(v)` (R12). -/
def push8 (v : Byte) (s : State) : State :=
  (busWrite (stackAddr s.sp) v s).setSp (s.sp - 1)

/-- `Pull8()` (R12). -/
def pull8 (s : State) : Byte × State :=
  busRead (stackAddr (s.sp + 1)) (s.setSp (s.sp + 1))

/-- Push a word, high byte first (46_flow.md R203, 60_exceptions.md R236). -/
def push16 (w : Word) (s : State) : State := push8 (loByte w) (push8 (hiByte w) s)

/-- Pull a word, low byte first (46_flow.md R204, R205). -/
def pull16 (s : State) : Word × State :=
  let lo := pull8 s
  let hi := pull8 lo.2
  (word hi.1 lo.1, hi.2)

/-! ## P -/

/-- Apply `SetNZ(v)` (10_state.md R16). -/
def setNZ (v : Byte) (s : State) : State := s.setP (s.p.setNZ v)

/-- Write P by an instruction that can change P.I with the mask edge of 60_exceptions.md R241 (CLI, SEI, PLP): the edge is
noted when P.I changes. -/
def setPWithEdge (p : Flags) (s : State) : State := (s.setP p).setMaskEdge (s.p.i != p.i)

/-! ## Taking an exception and returning from it -/

/-- What makes an exception that pushes a frame (60_exceptions.md R233). -/
inductive Cause where
  | nmi | irq | brk
deriving DecidableEq, Repr

/-- The vector of a cause (20_memory.md R36, 60_exceptions.md R233). -/
def Cause.vector : Cause → Word
  | .nmi => 0xFFFA#16
  | .irq => 0xFFFE#16
  | .brk => 0xFFFE#16

/-- The B bit of the P image that a cause pushes (R15, R233, R238). -/
def Cause.bBit : Cause → Bool
  | .nmi => false
  | .irq => false
  | .brk => true

/-- The reset vector (20_memory.md R36). -/
def resetVector : Word := 0xFFFC#16

/-- The entry sequence common to NMI, IRQ and BRK (60_exceptions.md R236): push the return address (high byte first) and the P
image with the flags as they were, then set I and clear D, clear what is pending, end a wait, and load PC from the vector.
The mask edge ends too, for an entry is no CLI, SEI or PLP (R241). -/
def enterException (c : Cause) (ret : Word) (s : State) : State :=
  let pushed := push8 (s.p.image c.bBit) (push16 ret s)
  let masked := pushed.setP { pushed.p with i := true, d := false }
  let served := if c = .nmi then masked.setNmiPending false else masked
  let awake := (served.setWaiting false).setMaskEdge false
  let handler := read16 c.vector awake
  handler.2.setPc handler.1

/-- The return from an exception (46_flow.md R204, 60_exceptions.md R242): pull P, then PC, exactly as pulled. The restored I
applies at once, so no mask edge is noted (R241). -/
def returnFromException (s : State) : State :=
  let image := pull8 s
  let ret := pull16 (image.2.setP (Flags.ofByte image.1))
  ret.2.setPc ret.1

/-! ## Reset -/

/-- What the reset sequence does to everything but PC (70_reset_and_hazards.md R260): A, X, Y, S, N, V, Z, C and nmi_pending become
`any`; I is set, D is clear, no wait, no stop; nothing is written to memory. -/
def resetRegisters (s : State) : State :=
  let dA := draw s
  let dX := draw dA.2
  let dY := draw dX.2
  let dS := draw dY.2
  let dP := draw dS.2
  let dN := drawBit dP.2
  let flags : Flags := { Flags.ofByte dP.1 with i := true, d := false }
  let cleared := ((dN.2.setWaiting false).setStopped false).setMaskEdge false
  let regs := ((((cleared.setA dA.1).setX dX.1).setY dY.1).setSp dS.1).setP flags
  regs.setNmiPending dN.1

/-- The reset sequence (R260): the registers, then PC from the reset vector, low byte first. -/
def resetSequence (s : State) : State :=
  let start := read16 resetVector (resetRegisters s)
  start.2.setPc start.1

end Sys2Proof.Machine
end

