-- ==== Sys2Proof/Machine/Operands.lean ====
section
/-! DEFINITION. The operand forms: effective addresses (30_encoding.md R57 to R65), reading an operand (R70), storing to one,
read-modify-write (43_logic.md R140), jump targets (R60, R66, R67) and branches (R68, R69, 45_branch.md R180). PC is already
the address of the next instruction (00_scope.md R5). -/

namespace Sys2Proof.Machine

/-- The effective address of a memory operand, after the pointer reads its mode makes (R57 to R65). -/
def effAddr : MemArg → State → Word × State
  | .zp z, s => (zext16 z, s)
  | .zpX z, s => (zext16 (z + s.x), s)
  | .zpY z, s => (zext16 (z + s.y), s)
  | .abs w, s => (w, s)
  | .absX w, s => (w + zext16 s.x, s)
  | .absY w, s => (w + zext16 s.y, s)
  | .indX z, s => read16zp (z + s.x) s
  | .indY z, s => let base := read16zp z s; (base.1 + zext16 base.2.y, base.2)
  | .zpInd z, s => read16zp z s

/-- The operand `M` of an instruction that reads its operand, and the state after the reads (R70). -/
def readOperand : ReadArg → State → Byte × State
  | .imm v, s => (v, s)
  | .mem m, s => let ea := effAddr m s; busRead ea.1 ea.2

/-- Store a byte at a memory operand; the address is not read (20_memory.md R35). -/
def store (m : MemArg) (v : Byte) (s : State) : State :=
  let ea := effAddr m s
  busWrite ea.1 v ea.2

/-- Read, change and write back: one read and one write of the same address, or the accumulator in place (R140, R35). -/
def modifyOperand (o : ModArg) (op : Byte → Flags → Byte × Flags) (s : State) : State :=
  match o with
  | .acc =>
    let r := op s.a s.p
    (s.setA r.1).setP r.2
  | .mem m =>
    let ea := effAddr m s
    let old := busRead ea.1 ea.2
    let r := op old.1 old.2.p
    (busWrite ea.1 r.1 old.2).setP r.2

/-- Take a relative branch or fall through: PC is the address of the next instruction (R180). -/
def branchIf (taken : Bool) (d : Byte) (s : State) : State :=
  if taken then s.setPc (s.pc + sext16 d) else s

/-- BBRn and BBSn: branch if bit `n` of the zero-page byte has the value `want`; the byte is read once (R189, R190). -/
def branchOnBit (n : Nat) (want : Bool) (z d : Byte) (s : State) : State :=
  let m := busRead (zext16 z) s
  branchIf (bitOf m.1 n == want) d m.2

end Sys2Proof.Machine
end

