-- ==== Sys2Proof/Machine/Boundary.lean ====
section
/-! DEFINITION. What happens at an instruction boundary (60_exceptions.md R239 to R241, R245 to R247): the inputs are sampled, then
reset, a stop, NMI, a wait and IRQ are looked at in that order; if none takes the step, an instruction is fetched
(00_scope.md R5). -/

namespace Sys2Proof.Machine

/-- The inputs at a boundary where no change is listed: the level of irq_line holds, no edge, no reset (log 11). -/
def quietInputs (s : State) : Inputs := { irqLine := s.irqLine, nmiEdge := false, reset := false }

/-- The inputs of the coming boundary. -/
def nextInputs (s : State) : Inputs := s.inputs.headD (quietInputs s)

/-- Let the environment act (R231): take the next record of inputs. An NMI edge sets nmi_pending (R235), but for one that
arrives while stopped, which is not remembered (R246). -/
def sampleInputs (s : State) : State :=
  let now := nextInputs s
  ((s.setInputs s.inputs.tail).setIrqLine now.irqLine).setNmiPending (s.nmiPending || (now.nmiEdge && !s.stopped))

/-- Whether an IRQ is taken at this boundary, of a running processor (R240, R241): on an asserted line by P.I, and where the
instruction just executed was CLI, SEI or PLP and changed P.I by a free bit, for both outcomes are admitted (log 12). -/
def irqTaken (s : State) : Bool × State :=
  if s.irqLine then
    if s.maskEdge then drawBit s else (!s.p.i, s)
  else (false, s)

/-- What a boundary comes to. -/
inductive Boundary where
  /-- the step is done -/
  | done (s : State)
  /-- an exception is taken, with PC as the return address -/
  | enter (c : Cause) (s : State)
  /-- an instruction is fetched and executed -/
  | fetch (s : State)
deriving DecidableEq, Repr

/-- One turn of the wait (R247): an asserted irq_line ends it, through the vector if P.I = 0, without if P.I = 1. -/
def waitTurn (s : State) : Boundary :=
  if s.irqLine then
    if s.p.i then .done (s.setWaiting false) else .enter .irq s
  else .done s

/-- The check before each instruction fetch (R240), with the stopped and waiting states (R246, R247). Whatever is fetched after
it, the mask edge is over (R241). -/
def checkBoundary (s : State) : Boundary :=
  let t := sampleInputs s
  if (nextInputs s).reset then .done (resetSequence t)
  else if t.stopped then .done t
  else if t.nmiPending then .enter .nmi t
  else if t.waiting then waitTurn t
  else
    let irq := irqTaken t
    if irq.1 then .enter .irq irq.2
    else .fetch (irq.2.setMaskEdge false)

/-- Fetch the instruction at PC, byte by byte as its length requires, and advance PC over it (R5, R43, R50). -/
def fetchInstr (s : State) : Instr × State :=
  let op := busRead s.pc s
  match rowOf op.1 with
  | .one i => (i, op.2.setPc (s.pc + 1))
  | .two f =>
    let b1 := busRead (s.pc + 1) op.2
    (f b1.1, b1.2.setPc (s.pc + 2))
  | .three f =>
    let b1 := busRead (s.pc + 1) op.2
    let b2 := busRead (s.pc + 2) b1.2
    (f b1.1 b2.1, b2.2.setPc (s.pc + 3))

/-- Put bytes into memory from an address on, whatever the region: a load from outside the machine (log 17). -/
def loadBytes (a : Word) : List Byte → State → State
  | [], s => s
  | b :: rest, s => loadBytes (a + 1) rest (s.setMem (s.mem.write a.toNat b))

/-- A read of the address gives the byte that memory holds, with no effect: RAM or ROM (20_memory.md R33). -/
def plainAt (m : MemoryMap) (a : Word) : Bool :=
  match m.regionAt a.toNat with
  | .ram => true
  | .rom => true
  | .device => false
  | .unmapped => false

/-- Make the coming boundary one at which an instruction is fetched: running, no input change, no request, and plain memory
under the three bytes at PC (changed only where it is not so already). -/
def readyToFetch (s : State) : State :=
  let quiet := (((s.setStopped false).setWaiting false).setNmiPending false).setIrqLine false
  let still := quiet.setInputs (if s.inputs = [] then [] else { irqLine := false, nmiEdge := false, reset := false } :: s.inputs)
  if plainAt s.memMap s.pc && plainAt s.memMap (s.pc + 1) && plainAt s.memMap (s.pc + 2) then still
  else { still with memMap := { base := 0, size := addressCount, region := .ram } :: s.memMap }

end Sys2Proof.Machine
end

