-- ==== Sys2Proof/Machine/Branch.lean ====
section
/-! DEFINITION. The Branch instructions (45_branch.md R181 to R190). None writes a flag, a register or memory (R180). -/

namespace Sys2Proof.Machine

/-- BCC (R181). -/
def execBcc (d : Byte) (s : State) : StepResult := .next (branchIf (!s.p.c) d s)

/-- BCS (R182). -/
def execBcs (d : Byte) (s : State) : StepResult := .next (branchIf s.p.c d s)

/-- BEQ (R183). -/
def execBeq (d : Byte) (s : State) : StepResult := .next (branchIf s.p.z d s)

/-- BMI (R184). -/
def execBmi (d : Byte) (s : State) : StepResult := .next (branchIf s.p.n d s)

/-- BNE: Z clear (90_conflicts.md C3) (R185). -/
def execBne (d : Byte) (s : State) : StepResult := .next (branchIf (!s.p.z) d s)

/-- BPL (R186). -/
def execBpl (d : Byte) (s : State) : StepResult := .next (branchIf (!s.p.n) d s)

/-- BVC (R187). -/
def execBvc (d : Byte) (s : State) : StepResult := .next (branchIf (!s.p.v) d s)

/-- BVS (R188). -/
def execBvs (d : Byte) (s : State) : StepResult := .next (branchIf s.p.v d s)

/-- BBR0 (R189). -/
def execBbr0 (z d : Byte) (s : State) : StepResult := .next (branchOnBit 0 false z d s)

/-- BBR1 (R189). -/
def execBbr1 (z d : Byte) (s : State) : StepResult := .next (branchOnBit 1 false z d s)

/-- BBR2 (R189). -/
def execBbr2 (z d : Byte) (s : State) : StepResult := .next (branchOnBit 2 false z d s)

/-- BBR3 (R189). -/
def execBbr3 (z d : Byte) (s : State) : StepResult := .next (branchOnBit 3 false z d s)

/-- BBR4 (R189). -/
def execBbr4 (z d : Byte) (s : State) : StepResult := .next (branchOnBit 4 false z d s)

/-- BBR5 (R189). -/
def execBbr5 (z d : Byte) (s : State) : StepResult := .next (branchOnBit 5 false z d s)

/-- BBR6 (R189). -/
def execBbr6 (z d : Byte) (s : State) : StepResult := .next (branchOnBit 6 false z d s)

/-- BBR7 (R189). -/
def execBbr7 (z d : Byte) (s : State) : StepResult := .next (branchOnBit 7 false z d s)

/-- BBS0 (R190). -/
def execBbs0 (z d : Byte) (s : State) : StepResult := .next (branchOnBit 0 true z d s)

/-- BBS1 (R190). -/
def execBbs1 (z d : Byte) (s : State) : StepResult := .next (branchOnBit 1 true z d s)

/-- BBS2 (R190). -/
def execBbs2 (z d : Byte) (s : State) : StepResult := .next (branchOnBit 2 true z d s)

/-- BBS3 (R190). -/
def execBbs3 (z d : Byte) (s : State) : StepResult := .next (branchOnBit 3 true z d s)

/-- BBS4 (R190). -/
def execBbs4 (z d : Byte) (s : State) : StepResult := .next (branchOnBit 4 true z d s)

/-- BBS5 (R190). -/
def execBbs5 (z d : Byte) (s : State) : StepResult := .next (branchOnBit 5 true z d s)

/-- BBS6 (R190). -/
def execBbs6 (z d : Byte) (s : State) : StepResult := .next (branchOnBit 6 true z d s)

/-- BBS7 (R190). -/
def execBbs7 (z d : Byte) (s : State) : StepResult := .next (branchOnBit 7 true z d s)

end Sys2Proof.Machine
end

