-- ==== Sys2Proof/Machine/FlagInstr.lean ====
section
/-! DEFINITION. The Flag instructions (47_flags.md R220 to R226): each writes one bit of P. CLI and SEI note the mask edge of 60_exceptions.md R241. -/

namespace Sys2Proof.Machine

/-- CLC (R220). -/
def execClc (s : State) : StepResult := .next (s.setP { s.p with c := false })

/-- CLD (R221). -/
def execCld (s : State) : StepResult := .next (s.setP { s.p with d := false })

/-- CLI (R222). -/
def execCli (s : State) : StepResult := .next (setPWithEdge { s.p with i := false } s)

/-- CLV (R223). -/
def execClv (s : State) : StepResult := .next (s.setP { s.p with v := false })

/-- SEC (R224). -/
def execSec (s : State) : StepResult := .next (s.setP { s.p with c := true })

/-- SED (R225). -/
def execSed (s : State) : StepResult := .next (s.setP { s.p with d := true })

/-- SEI (R226). -/
def execSei (s : State) : StepResult := .next (setPWithEdge { s.p with i := true } s)

end Sys2Proof.Machine
end

