-- ==== Sys2Proof/Machine/Flow.lean ====
section
/-! DEFINITION. The Flow instructions (46_flow.md R200 to R208). PC is already the address of the next instruction (00_scope.md R5). -/

namespace Sys2Proof.Machine

/-- BRA (R200). -/
def execBra (d : Byte) (s : State) : StepResult := .next (branchIf true d s)

/-- Jump to the address read at a pointer, low byte first (R201). -/
def jumpThrough (ptr : Word) (s : State) : State :=
  let target := read16 ptr s
  target.2.setPc target.1

/-- JMP Indirect by JMP_IND_PAGE_END: the pointer's second byte is at the next address, in the next page too (R201, R202, log 3). -/
def jumpIndirect (policy : Config.JmpIndPolicy) (w : Word) (s : State) : StepResult :=
  match policy with
  | .cmos => .next (jumpThrough w s)
  | .refuse => if loByte w = 0xFF#8 then .refused .jmpIndirectPageEnd else .next (jumpThrough w s)

/-- JMP (R201, R202, R60, R66, R67). -/
def execJmp (t : JumpArg) (s : State) : StepResult :=
  match t with
  | .abs w => .next (s.setPc w)
  | .ind w => jumpIndirect Config.jmpIndPageEnd w s
  | .absX w => .next (jumpThrough (w + zext16 s.x) s)

/-- JSR: push the address of its own third byte, then jump (R203, log 14). -/
def execJsr (w : Word) (s : State) : StepResult := .next ((push16 (s.pc - 1) s).setPc w)

/-- RTI (R204). -/
def execRti (s : State) : StepResult := .next (returnFromException s)

/-- RTS: the address pulled plus 1 (R205). -/
def execRts (s : State) : StepResult :=
  let ret := pull16 s
  .next (ret.2.setPc (ret.1 + 1))

/-- BRK: the exception entry through the IRQ/BRK vector, whatever P.I is; the return address is the opcode's plus 2
(R206, 90_conflicts.md C5, C14, log 18). -/
def execBrk (s : State) : StepResult := .next (enterException .brk (s.pc + 1) s)

/-- STP (R207). -/
def execStp (s : State) : StepResult := .next (s.setStopped true)

/-- WAI (R208). -/
def execWai (s : State) : StepResult := .next (s.setWaiting true)

end Sys2Proof.Machine
end

