-- ==== Sys2Proof/Machine/LoadStore.lean ====
section
/-! DEFINITION. The Load/Store instructions (40_load_store.md R100 to R106). A load writes its register, N and Z; a store writes one byte and no flag
(R107). -/

namespace Sys2Proof.Machine

/-- LDA: `A <- M; SetNZ(A)` (R100). -/
def execLda (o : ReadArg) (s : State) : StepResult :=
  let m := readOperand o s
  .next (setNZ m.1 (m.2.setA m.1))

/-- LDX: `X <- M; SetNZ(X)` (R101). -/
def execLdx (o : ReadArg) (s : State) : StepResult :=
  let m := readOperand o s
  .next (setNZ m.1 (m.2.setX m.1))

/-- LDY: `Y <- M; SetNZ(Y)` (R102). -/
def execLdy (o : ReadArg) (s : State) : StepResult :=
  let m := readOperand o s
  .next (setNZ m.1 (m.2.setY m.1))

/-- STA (R103). -/
def execSta (m : MemArg) (s : State) : StepResult := .next (store m s.a s)

/-- STX (R104). -/
def execStx (m : MemArg) (s : State) : StepResult := .next (store m s.x s)

/-- STY (R105). -/
def execSty (m : MemArg) (s : State) : StepResult := .next (store m s.y s)

/-- STZ (R106). -/
def execStz (m : MemArg) (s : State) : StepResult := .next (store m 0x00#8 s)

end Sys2Proof.Machine
end

