-- ==== Sys2Proof/Machine/Logic.lean ====
section
/-! DEFINITION. The Logic instructions (43_logic.md R141 to R154). -/

namespace Sys2Proof.Machine

/-- ASL (R141). -/
def execAsl (o : ModArg) (s : State) : StepResult := .next (modifyOperand o aslOp s)

/-- LSR (R142). -/
def execLsr (o : ModArg) (s : State) : StepResult := .next (modifyOperand o lsrOp s)

/-- ROL (R143). -/
def execRol (o : ModArg) (s : State) : StepResult := .next (modifyOperand o rolOp s)

/-- ROR (R144). -/
def execRor (o : ModArg) (s : State) : StepResult := .next (modifyOperand o rorOp s)

/-- AND: `A <- A & M; SetNZ(A)`, not an addition (90_conflicts.md C1) (R145). -/
def execAnd (o : ReadArg) (s : State) : StepResult :=
  let m := readOperand o s
  .next (setNZ (m.2.a &&& m.1) (m.2.setA (m.2.a &&& m.1)))

/-- EOR: `A <- A ^ M; SetNZ(A)` (R147). -/
def execEor (o : ReadArg) (s : State) : StepResult :=
  let m := readOperand o s
  .next (setNZ (m.2.a ^^^ m.1) (m.2.setA (m.2.a ^^^ m.1)))

/-- ORA: `A <- A | M; SetNZ(A)` (R148). -/
def execOra (o : ReadArg) (s : State) : StepResult :=
  let m := readOperand o s
  .next (setNZ (m.2.a ||| m.1) (m.2.setA (m.2.a ||| m.1)))

/-- BIT: in Immediate mode Z alone is written; in a memory mode N and V come from M (R146). -/
def execBit (o : ReadArg) (s : State) : StepResult :=
  let m := readOperand o s
  match o with
  | .imm _ => .next (m.2.setP (m.2.p.testZ m.2.a m.1))
  | .mem _ => .next (m.2.setP (m.2.p.bitTest m.2.a m.1))

/-- TRB: clear in memory the bits of A; Z tells whether none was set (R150). -/
def execTrb (m : MemArg) (s : State) : StepResult := .next (modifyOperand (.mem m) (trbOp s.a) s)

/-- TSB: set in memory the bits of A; Z tells whether none was set (R151). -/
def execTsb (m : MemArg) (s : State) : StepResult := .next (modifyOperand (.mem m) (tsbOp s.a) s)

/-- NOP: nothing beyond the PC advance (R152). -/
def execNop (s : State) : StepResult := .next s

/-- RMB0: clear bit 0 of a zero-page byte (R153). -/
def execRmb0 (z : Byte) (s : State) : StepResult := .next (modifyOperand (.mem (.zp z)) (rmbOp 0) s)

/-- RMB1: clear bit 1 of a zero-page byte (R153). -/
def execRmb1 (z : Byte) (s : State) : StepResult := .next (modifyOperand (.mem (.zp z)) (rmbOp 1) s)

/-- RMB2: clear bit 2 of a zero-page byte (R153). -/
def execRmb2 (z : Byte) (s : State) : StepResult := .next (modifyOperand (.mem (.zp z)) (rmbOp 2) s)

/-- RMB3: clear bit 3 of a zero-page byte (R153). -/
def execRmb3 (z : Byte) (s : State) : StepResult := .next (modifyOperand (.mem (.zp z)) (rmbOp 3) s)

/-- RMB4: clear bit 4 of a zero-page byte (R153). -/
def execRmb4 (z : Byte) (s : State) : StepResult := .next (modifyOperand (.mem (.zp z)) (rmbOp 4) s)

/-- RMB5: clear bit 5 of a zero-page byte (R153). -/
def execRmb5 (z : Byte) (s : State) : StepResult := .next (modifyOperand (.mem (.zp z)) (rmbOp 5) s)

/-- RMB6: clear bit 6 of a zero-page byte (R153). -/
def execRmb6 (z : Byte) (s : State) : StepResult := .next (modifyOperand (.mem (.zp z)) (rmbOp 6) s)

/-- RMB7: clear bit 7 of a zero-page byte (R153). -/
def execRmb7 (z : Byte) (s : State) : StepResult := .next (modifyOperand (.mem (.zp z)) (rmbOp 7) s)

/-- SMB0: set bit 0 of a zero-page byte (R154). -/
def execSmb0 (z : Byte) (s : State) : StepResult := .next (modifyOperand (.mem (.zp z)) (smbOp 0) s)

/-- SMB1: set bit 1 of a zero-page byte (R154). -/
def execSmb1 (z : Byte) (s : State) : StepResult := .next (modifyOperand (.mem (.zp z)) (smbOp 1) s)

/-- SMB2: set bit 2 of a zero-page byte (R154). -/
def execSmb2 (z : Byte) (s : State) : StepResult := .next (modifyOperand (.mem (.zp z)) (smbOp 2) s)

/-- SMB3: set bit 3 of a zero-page byte (R154). -/
def execSmb3 (z : Byte) (s : State) : StepResult := .next (modifyOperand (.mem (.zp z)) (smbOp 3) s)

/-- SMB4: set bit 4 of a zero-page byte (R154). -/
def execSmb4 (z : Byte) (s : State) : StepResult := .next (modifyOperand (.mem (.zp z)) (smbOp 4) s)

/-- SMB5: set bit 5 of a zero-page byte (R154). -/
def execSmb5 (z : Byte) (s : State) : StepResult := .next (modifyOperand (.mem (.zp z)) (smbOp 5) s)

/-- SMB6: set bit 6 of a zero-page byte (R154). -/
def execSmb6 (z : Byte) (s : State) : StepResult := .next (modifyOperand (.mem (.zp z)) (smbOp 6) s)

/-- SMB7: set bit 7 of a zero-page byte (R154). -/
def execSmb7 (z : Byte) (s : State) : StepResult := .next (modifyOperand (.mem (.zp z)) (smbOp 7) s)

end Sys2Proof.Machine
end

