-- ==== Sys2Proof/Machine/Math.lean ====
section
/-! DEFINITION. The Math instructions (44_math.md R160 to R172): addition and subtraction in binary and decimal, compares, increments. -/

namespace Sys2Proof.Machine

/-- Write the outcome of an addition or subtraction: A and N, V, Z, C (R160 to R163). -/
def setSum (r : Sum) (s : State) : State := (s.setA r.value).setP (s.p.ofSum r)

/-- ADC or SBC with P.D = 1, by DECIMAL_POLICY, `algorithm` being the sequence of R162 or R163 (D13, log 4). Under
`validBcdOnly` V is drawn, and for a byte that is no valid BCD so is A, and N, V, Z, C by a second draw. -/
def decimalSum (policy : Config.DecimalPolicy) (algorithm : Byte → Byte → Bool → Sum) (m : Byte) (s : State) : StepResult :=
  match policy with
  | .refuse => .refused .decimalMode
  | .algorithm => .next (setSum (algorithm s.a m s.p.c) s)
  | .validBcdOnly =>
    if validBcd s.a && validBcd m then
      let v := drawBit s
      .next (setSum { algorithm s.a m s.p.c with overflow := v.1 } v.2)
    else
      let byte := draw s
      let flags := draw byte.2
      .next ((flags.2.setA byte.1).setP
        { s.p with n := bitOf flags.1 7, v := bitOf flags.1 6, z := bitOf flags.1 1, c := bitOf flags.1 0 })

/-- ADC or SBC of an operand by P.D (R160, R161). -/
def addOrSubtract (binary decimal : Byte → Byte → Bool → Sum) (m : Byte) (s : State) : StepResult :=
  if s.p.d then decimalSum Config.decimalPolicy decimal m s
  else .next (setSum (binary s.a m s.p.c) s)

/-- ADC (R160, R162). -/
def execAdc (o : ReadArg) (s : State) : StepResult :=
  let m := readOperand o s
  addOrSubtract adcBinary adcDecimal m.1 m.2

/-- SBC: the carry is not-borrow (R161, R163). -/
def execSbc (o : ReadArg) (s : State) : StepResult :=
  let m := readOperand o s
  addOrSubtract sbcBinary sbcDecimal m.1 m.2

/-- CMP: N is bit 7 of the difference (R164, 90_conflicts.md C9); decimal mode has no effect. -/
def execCmp (o : ReadArg) (s : State) : StepResult :=
  let m := readOperand o s
  .next (m.2.setP (m.2.p.compare m.2.a m.1))

/-- CPX (R165). -/
def execCpx (o : ReadArg) (s : State) : StepResult :=
  let m := readOperand o s
  .next (m.2.setP (m.2.p.compare m.2.x m.1))

/-- CPY (R166). -/
def execCpy (o : ReadArg) (s : State) : StepResult :=
  let m := readOperand o s
  .next (m.2.setP (m.2.p.compare m.2.y m.1))

/-- INC (R167). -/
def execInc (o : ModArg) (s : State) : StepResult := .next (modifyOperand o incOp s)

/-- INX (R168). -/
def execInx (s : State) : StepResult := .next (setNZ (s.x + 1) (s.setX (s.x + 1)))

/-- INY (R169). -/
def execIny (s : State) : StepResult := .next (setNZ (s.y + 1) (s.setY (s.y + 1)))

/-- DEC (R170). -/
def execDec (o : ModArg) (s : State) : StepResult := .next (modifyOperand o decOp s)

/-- DEX (R171). -/
def execDex (s : State) : StepResult := .next (setNZ (s.x - 1) (s.setX (s.x - 1)))

/-- DEY (R172). -/
def execDey (s : State) : StepResult := .next (setNZ (s.y - 1) (s.setY (s.y - 1)))

end Sys2Proof.Machine
end

