-- ==== Sys2Proof/Machine/Reserved.lean ====
section
/-! DEFINITION. The 44 reserved opcode bytes (30_encoding.md R90). -/

namespace Sys2Proof.Machine

/-- A reserved byte by RESERVED_OPCODE_POLICY: under `nop` nothing beyond the PC advance over its length (R90, D3, log 2). -/
def reservedStep (policy : Config.ReservedPolicy) (s : State) : StepResult :=
  match policy with
  | .refuse => .refused .reservedOpcode
  | .nop => .next s

/-- RESERVED (R90). -/
def execReserved (s : State) : StepResult := reservedStep Config.reservedOpcodePolicy s

end Sys2Proof.Machine
end

