-- ==== Sys2Proof/Machine/Stack.lean ====
section
/-! DEFINITION. The Stack instructions (42_stack.md R120 to R127): one byte pushed or pulled (10_state.md R12). -/

namespace Sys2Proof.Machine

/-- PHA (R120). -/
def execPha (s : State) : StepResult := .next (push8 s.a s)

/-- PHP: the image has bits 5 and 4 set (R121, R15). -/
def execPhp (s : State) : StepResult := .next (push8 (s.p.image true) s)

/-- PHX (R122). -/
def execPhx (s : State) : StepResult := .next (push8 s.x s)

/-- PHY (R123). -/
def execPhy (s : State) : StepResult := .next (push8 s.y s)

/-- PLA (R124). -/
def execPla (s : State) : StepResult :=
  let v := pull8 s
  .next (setNZ v.1 (v.2.setA v.1))

/-- PLP: all six flags from the byte pulled, bits 5 and 4 ignored (R125); it can change P.I, with R241's edge. -/
def execPlp (s : State) : StepResult :=
  let v := pull8 s
  .next (setPWithEdge (Flags.ofByte v.1) v.2)

/-- PLX (R126). -/
def execPlx (s : State) : StepResult :=
  let v := pull8 s
  .next (setNZ v.1 (v.2.setX v.1))

/-- PLY: it loads Y (R127, 90_conflicts.md C7). -/
def execPly (s : State) : StepResult :=
  let v := pull8 s
  .next (setNZ v.1 (v.2.setY v.1))

end Sys2Proof.Machine
end

