-- ==== Sys2Proof/Machine/Transfer.lean ====
section
/-! DEFINITION. The Transfer instructions (41_transfer.md R110 to R115). All but TXS write N and Z from the byte moved. -/

namespace Sys2Proof.Machine

/-- TAX (R110). -/
def execTax (s : State) : StepResult := .next (setNZ s.a (s.setX s.a))

/-- TAY (R111). -/
def execTay (s : State) : StepResult := .next (setNZ s.a (s.setY s.a))

/-- TSX (R112). -/
def execTsx (s : State) : StepResult := .next (setNZ s.sp (s.setX s.sp))

/-- TXA (R113). -/
def execTxa (s : State) : StepResult := .next (setNZ s.x (s.setA s.x))

/-- TXS: no flag is written (R114). -/
def execTxs (s : State) : StepResult := .next (s.setSp s.x)

/-- TYA (R115). -/
def execTya (s : State) : StepResult := .next (setNZ s.y (s.setA s.y))

end Sys2Proof.Machine
end

