-- ==== Sys2Proof/Machine/ResetInside.lean ====
section
/-! DEFINITION. A step that nothing cuts short, the addresses it writes (20_memory.md R35), and what a reset inside it leaves
(70_reset_and_hazards.md R260, 93_implementation_defined.md U18, log 13). -/

namespace Sys2Proof.Machine

/-- A step that no reset cuts short: what the boundary comes to, or the instruction fetched there (60_exceptions.md R240). -/
def completeStep (s : State) : StepResult :=
  match checkBoundary s with
  | .done t => .next t
  | .enter c t => .next (enterException c t.pc t)
  | .fetch t => exec (fetchInstr t).1 (fetchInstr t).2

/-- The three stack addresses that an exception entry pushes to (60_exceptions.md R236). -/
def frameAddrs (s : State) : List Word := [stackAddr s.sp, stackAddr (s.sp - 1), stackAddr (s.sp - 2)]

/-- The address that a read-modify-write instruction writes, if its operand is in memory (R35). -/
def modWrites (o : ModArg) (s : State) : List Word :=
  match o with
  | .acc => []
  | .mem m => [(effAddr m s).1]

/-- The addresses that an instruction writes, by the table of 20_memory.md R35; PC is already past the instruction. -/
def writtenAddrs (i : Instr) (s : State) : List Word :=
  match i with
  | .sta m | .stx m | .sty m | .stz m | .trb m | .tsb m => [(effAddr m s).1]
  | .asl o | .lsr o | .rol o | .ror o | .inc o | .dec o => modWrites o s
  | .rmb0 z | .rmb1 z | .rmb2 z | .rmb3 z | .rmb4 z | .rmb5 z | .rmb6 z | .rmb7 z
  | .smb0 z | .smb1 z | .smb2 z | .smb3 z | .smb4 z | .smb5 z | .smb6 z | .smb7 z => [zext16 z]
  | .pha | .php | .phx | .phy => [stackAddr s.sp]
  | .jsr _ => [stackAddr s.sp, stackAddr (s.sp - 1)]
  | .brk => frameAddrs s
  | .lda _ | .ldx _ | .ldy _ | .tax | .tay | .tsx | .txa | .txs | .tya | .pla | .plp | .plx | .ply
  | .and _ | .bit _ | .eor _ | .ora _ | .nop | .adc _ | .sbc _ | .cmp _ | .cpx _ | .cpy _ | .inx | .iny | .dex | .dey
  | .bcc _ | .bcs _ | .beq _ | .bmi _ | .bne _ | .bpl _ | .bvc _ | .bvs _ | .bra _
  | .bbr0 _ _ | .bbr1 _ _ | .bbr2 _ _ | .bbr3 _ _ | .bbr4 _ _ | .bbr5 _ _ | .bbr6 _ _ | .bbr7 _ _
  | .bbs0 _ _ | .bbs1 _ _ | .bbs2 _ _ | .bbs3 _ _ | .bbs4 _ _ | .bbs5 _ _ | .bbs6 _ _ | .bbs7 _ _
  | .jmp _ | .rti | .rts | .stp | .wai | .clc | .cld | .cli | .clv | .sec | .sed | .sei | .reserved _ _ => []

/-- The addresses that a complete step writes: those of the exception it takes, or of the instruction it executes. -/
def stepWrites (s : State) : List Word :=
  match checkBoundary s with
  | .done _ => []
  | .enter _ t => frameAddrs t
  | .fetch t => writtenAddrs (fetchInstr t).1 (fetchInstr t).2

/-- Any value in each byte of RAM that was being written: the byte as it was, as it would have become, or another (U18). -/
def anyBytes : List Word → State → State
  | [], s => s
  | a :: rest, s => anyBytes rest (if s.memMap.regionAt a.toNat = .ram then busWrite a (draw s).1 (draw s).2 else s)

/-- Device accesses with any value for the bytes handed over (U18); what a device answered stays. -/
def anyHanded : List DeviceAccess → State → List DeviceAccess × State
  | [], s => ([], s)
  | .read a v :: rest, s => let r := anyHanded rest s; (.read a v :: r.1, r.2)
  | .write a _ :: rest, s => let r := anyHanded rest (draw s).2; (.write a (draw s).1 :: r.1, r.2)

/-- Of the device accesses made since `before`, the newest may not have happened, a free byte deciding how many; those that did
are kept with any value for the bytes handed over. -/
def cutAccesses (before : List DeviceAccess) (s : State) : State :=
  let fresh := s.deviceLog.take (s.deviceLog.length - before.length)
  let k := draw s
  let made := anyHanded fresh k.2
  made.2.setDeviceLog (made.1.drop (k.1.toNat % (fresh.length + 1)) ++ before)

/-- A step from `s`, which would have ended in `t`, is interrupted by reset: the bytes it was writing hold any value, each device
access was made or not, and the reset sequence follows (R260). -/
def interrupted (s t : State) : State :=
  resetSequence (cutAccesses s.deviceLog (anyBytes (stepWrites s) t))

end Sys2Proof.Machine
end

