-- ==== Sys2Proof/Machine/Step.lean ====
section
/-! DEFINITION. One step (60_exceptions.md R240): the boundary check, then, if it comes to that, one instruction;
and a reset that falls inside the step (70_reset_and_hazards.md R260). -/

namespace Sys2Proof.Machine

/-- One step of the machine, with the reset that falls inside it, if there is one (R260, log 13). -/
def step (s : State) : Host.Outcome State Fault Refusal :=
  if (nextInputs s).resetInside then
    match completeStep s with
    | .next t => .next (interrupted s t)
    | .fault f => .fault f
    | .refused r => .refused r
  else completeStep s

/-- The state with an instruction word of spec/opcode_table.json stored where the next step fetches (log 17): the first byte at
PC, the next two behind it, and nothing that would keep the next step from fetching. -/
def State.withFetchWord (s : State) (nbits w : Nat) : State :=
  readyToFetch (loadBytes s.pc (tableWordBytes nbits w) s)

end Sys2Proof.Machine
end

