-- ==== Sys2Proof/Safety.lean ====
section
/-! DEFINITION. What statements are said in: the invariant of a run, the quiet boundary, what reads may change, and what a safe
step is. -/

namespace Sys2Proof.Machine

/-- The invariant that reset has and every step keeps: memory is in its canonical form; the processor is not both waiting and
stopped; and neither state is entered with a mask edge (WAI and STP are no CLI, SEI or PLP, 60_exceptions.md R241). -/
structure State.Inv (s : State) : Prop where
  memory : s.mem.wf
  oneState : ¬ (s.waiting = true ∧ s.stopped = true)
  noEdge : s.waiting = true ∨ s.stopped = true → s.maskEdge = false

/-- A safe step: the machine goes on (60_exceptions.md R232: the hardware has no fault). -/
def Completes (s : State) : Prop := ∃ t, step s = .next t

/-- No request stands at the coming boundary and the environment changes no input: an instruction is executed. -/
structure State.Quiet (s : State) : Prop where
  inputs : s.inputs = []
  irq : s.irqLine = false
  nmi : s.nmiPending = false
  running : s.waiting = false ∧ s.stopped = false

/-- `t` is `s` but for what reads of devices and of unmapped space change: the count of free values drawn and the list of device
accesses (20_memory.md R33). -/
def State.SameButReads (s t : State) : Prop := t = { s with draws := t.draws, deviceLog := t.deviceLog }

/-- The address is RAM: it reads as the byte last written, and a write replaces that byte (20_memory.md R33). -/
def State.isRam (s : State) (a : Word) : Prop := s.memMap.regionAt a.toNat = .ram

/-- The address is RAM or ROM: it reads as the byte memory holds, with no effect (20_memory.md R33). -/
def State.isPlain (s : State) (a : Word) : Prop := plainAt s.memMap a = true

/-- The byte that memory holds at an address: for RAM and ROM what a read of it gives (20_memory.md R33). -/
def State.byteAt (s : State) (a : Word) : Byte := s.mem.read a.toNat

/-- What a byte handed to an address adds to the list of device accesses: itself at a device, nothing elsewhere (20_memory.md R33). -/
def State.handed (s : State) (a : Word) (v : Byte) : List DeviceAccess :=
  if s.memMap.regionAt a.toNat = .device then [.write a v] else []

/-- A device access without the byte that was handed over. -/
def DeviceAccess.withoutValue : DeviceAccess → DeviceAccess
  | .read a v => .read a v
  | .write a _ => .write a 0#8

/-- `t` is `base` but for one byte handed to the address `a`: RAM there holds `v`, ROM and unmapped space are as before, a device
access is that one write and no other access is made; every other byte of memory is as before (20_memory.md R33, R35). In
`base` the reads of the operand are already made. -/
structure ChangesByte (base t : State) (a : Word) (v : Byte) : Prop where
  frame : t = { base with mem := t.mem, deviceLog := t.deviceLog }
  written : base.isRam a → t.byteAt a = v
  others : ∀ b, b ≠ a ∨ ¬ base.isRam a → t.byteAt b = base.byteAt b
  accesses : t.deviceLog = base.handed a v ++ base.deviceLog

/-- The two decimal digits of a byte as a number (44_math.md R162: high nibble tens, low nibble units). -/
def bcdValue (v : Byte) : Nat := 10 * (v.toNat / 16) + v.toNat % 16

/-- The three stack bytes below S are RAM: a frame pushed there can be pulled again (10_state.md R12). -/
def State.StackInRam (s : State) : Prop :=
  s.isRam (stackAddr s.sp) ∧ s.isRam (stackAddr (s.sp - 1)) ∧ s.isRam (stackAddr (s.sp - 2))

/-- The three bytes above S are RAM or ROM: a frame can be pulled from there (10_state.md R12). -/
def State.FramePlain (s : State) : Prop :=
  s.isPlain (stackAddr (s.sp + 1)) ∧ s.isPlain (stackAddr (s.sp + 2)) ∧ s.isPlain (stackAddr (s.sp + 3))

end Sys2Proof.Machine
end

