-- ==== Sys2Proof/Certificates/Slice0/Obligations.lean ====
section
/-! DEFINITION. The statements for the provers, from the numbered rules of spec/. In every statement about `exec` PC is already the
address of the next instruction (00_scope.md R5). -/

open Sys2Proof Sys2Proof.Machine

/-! ## Encoding -/

/-- R53, R71: decoding the bytes of a well-formed instruction gives it back, with every operand. -/
def Obligations.DecodeGivesBackEncodedInstruction : Prop :=
  ∀ i : Instr, i.WellFormed → ∃ bs, encode i = some bs ∧ ∀ rest, decode (bs ++ rest) = .ok (i, rest)

/-- R50, R53, R71, R72, R90: what decodes is a well-formed instruction, and its bytes are exactly those the decoder took; the terms
that have bytes are the well-formed ones. -/
def Obligations.DecodedBytesAreTheEncoding : Prop :=
  (∀ (bs : List Byte) (i : Instr) (rest : List Byte), decode bs = .ok (i, rest) →
    i.WellFormed ∧ ∃ front, encode i = some front ∧ bs = front ++ rest ∧ front.length = i.length) ∧
  (∀ i : Instr, (encode i).isSome = true ↔ i.WellFormed)

/-- R52: the decoder is total: three bytes always hold an instruction, and bytes are rejected exactly where they end too early: there
is no opcode byte, or there are fewer bytes than the opcode byte's length. -/
def Obligations.DecoderRejectsOnlyTruncatedBytes : Prop :=
  (∀ (op b1 b2 : Byte) (rest : List Byte), ∃ i tail, decode (op :: b1 :: b2 :: rest) = .ok (i, tail)) ∧
  (∀ bs : List Byte, (∃ e, decode bs = .error e) ↔
    match bs with
    | [] => True
    | op :: _ => bs.length < (rowOf op).length)

/-- R52: the compact statement of the length table, by the nibbles of the opcode byte, and R90's lengths. -/
def Obligations.OpcodeByteTellsTheLength : Prop :=
  ∀ op : Byte,
    (∀ l, reservedLength op = some l → (rowOf op).length = l) ∧
    (reservedLength op = none →
      let lo := op.toNat % 16
      (rowOf op).length =
        if lo = 0x8 ∨ lo = 0xA ∨ op = 0xCB#8 ∨ op = 0xDB#8 then 1
        else if lo = 0xF then 3
        else if lo = 0xC ∨ lo = 0xD ∨ lo = 0xE then 3
        else if op ∈ [0x19#8, 0x39#8, 0x59#8, 0x79#8, 0x99#8, 0xB9#8, 0xD9#8, 0xF9#8] then 3
        else if op ∈ [0x00#8, 0x40#8, 0x60#8] then 1
        else if op = 0x20#8 then 3
        else 2)

/-- The encodings of 30_encoding.md R92's table and of the corner cells: a few words, written out. -/
def Obligations.SampleWordsDecode : Prop :=
  decode [0x6D#8, 0x00#8, 0x44#8] = .ok (.adc (.mem (.abs 0x4400#16)), []) ∧
  decode [0xB6#8, 0x44#8] = .ok (.ldx (.mem (.zpY 0x44#8)), []) ∧
  decode [0x61#8, 0x44#8] = .ok (.adc (.mem (.indX 0x44#8)), []) ∧
  decode [0x71#8, 0x44#8] = .ok (.adc (.mem (.indY 0x44#8)), []) ∧
  decode [0x72#8, 0x44#8] = .ok (.adc (.mem (.zpInd 0x44#8)), []) ∧
  decode [0x0A#8] = .ok (.asl .acc, []) ∧
  decode [0x3F#8, 0x44#8, 0x10#8] = .ok (.bbr3 0x44#8 0x10#8, []) ∧
  decode [0x6C#8, 0x00#8, 0x44#8] = .ok (.jmp (.ind 0x4400#16), []) ∧
  decode [0x7C#8, 0x00#8, 0x44#8] = .ok (.jmp (.absX 0x4400#16), []) ∧
  decode [0x48#8, 0xEA#8] = .ok (.pha, [0xEA#8]) ∧
  decode [0xAA#8] = .ok (.tax, []) ∧
  decode [0x18#8] = .ok (.clc, [])

/-! ## The machine as a whole -/

/-- 10_state.md, 60_exceptions.md: the state after reset meets the invariant. -/
def Obligations.ResetMeetsInvariant : Prop := State.reset.Inv

/-- Every step, from any state that meets the invariant, gives one that meets it. -/
def Obligations.EveryStepKeepsInvariant : Prop :=
  ∀ s t : State, s.Inv → step s = .next t → t.Inv

/-- R232: there is no fault. That there is no refusal and no stuck state either, so that every state has a next state, is the model's
choice: RESERVED_OPCODE_POLICY = nop (log 2), JMP_IND_PAGE_END = cmos (log 3), DECIMAL_POLICY = valid_bcd_only (log 4), a read of
unmapped space draws a free value (log 10), and a stopped machine or a waiting one with no event answers the same state (log 20). -/
def Obligations.EveryStateHasANextState : Prop := ∀ s : State, Completes s

/-- R33: ROM, device and unmapped addresses keep the byte memory holds, and the map itself stays, over every step. -/
def Obligations.OnlyRamChangesAndTheMapStays : Prop :=
  ∀ s t : State, step s = .next t →
    t.memMap = s.memMap ∧ ∀ a : Word, ¬ s.isRam a → t.byteAt a = s.byteAt a

/-- R40: a step adds its device accesses in front of those made before (log 9); a draw takes the free value of the draw count and
moves the count past it, and no step lowers the count (log 5). -/
def Obligations.DeviceAccessesAreOnlyAdded : Prop :=
  (∀ s t : State, step s = .next t → (∃ new, t.deviceLog = new ++ s.deviceLog) ∧ s.draws ≤ t.draws) ∧
  ∀ s : State, draw s = (Config.freeByte s.draws, { s with draws := s.draws + 1 })

/-- R19: the values the spec gives for the state after reset; PC is the word at $FFFC/$FFFD of its own memory. -/
def Obligations.ResetValuesOfTheSpec : Prop :=
  State.reset.pc = word (State.reset.byteAt 0xFFFD#16) (State.reset.byteAt 0xFFFC#16) ∧
  State.reset.p.i = true ∧ State.reset.p.d = false ∧
  State.reset.waiting = false ∧ State.reset.stopped = false

/-- R5: at a boundary with no request, when the bytes at PC (in RAM or ROM) decode to an instruction, the step is that
instruction's meaning on the state whose PC has moved over it (and whose mask edge is over, R241 as log 12 reads it). -/
def Obligations.StepRunsTheDecodedInstruction : Prop :=
  ∀ (s : State) (i : Instr) (rest : List Byte), s.Quiet →
    s.isPlain s.pc → s.isPlain (s.pc + 1) → s.isPlain (s.pc + 2) →
    decode [s.byteAt s.pc, s.byteAt (s.pc + 1), s.byteAt (s.pc + 2)] = .ok (i, rest) →
    step s = exec i { s with pc := s.pc + BitVec.ofNat 16 i.length, maskEdge := false }

/-- R240: the check before each fetch, of a running processor with no mask edge: reset, then NMI, then an unmasked IRQ, else one
instruction. -/
def Obligations.BoundaryCheckFollowsPriority : Prop :=
  ∀ s : State, s.waiting = false → s.stopped = false → s.maskEdge = false → (nextInputs s).resetInside = false →
    let t := sampleInputs s
    t.pc = s.pc ∧ t.p = s.p ∧ t.mem = s.mem ∧
    step s =
      if (nextInputs s).reset then .next (resetSequence t)
      else if t.nmiPending then .next (enterException .nmi s.pc t)
      else if t.irqLine && !s.p.i then .next (enterException .irq s.pc t)
      else exec (fetchInstr t).1 (fetchInstr t).2

/-- R18, R231, R235, R246: what the environment's record does at a boundary: the IRQ level is the record's, an NMI edge sets
nmi_pending unless the processor is stopped, and nothing else changes. With no record left (log 11) the level holds, there is no
edge and no reset, and nothing changes. -/
def Obligations.InputsSetLevelAndPendingEdge : Prop :=
  ∀ s : State,
    (∀ (now : Inputs) (later : List Inputs), s.inputs = now :: later →
      nextInputs s = now ∧
      sampleInputs s = { s with
        inputs := later
        irqLine := now.irqLine
        nmiPending := s.nmiPending || (now.nmiEdge && !s.stopped) }) ∧
    (s.inputs = [] →
      nextInputs s = { irqLine := s.irqLine, nmiEdge := false, reset := false, resetInside := false } ∧ sampleInputs s = s)

/-- R241, first half, in the form of log 12: only CLI, SEI and PLP note a mask edge, and only where they changed P.I. -/
def Obligations.MaskEdgeOnlyAfterCliSeiPlp : Prop :=
  ∀ (i : Instr) (s t : State), s.maskEdge = false → exec i s = .next t →
    match i with
    | .cli | .sei | .plp => t.maskEdge = (s.p.i != t.p.i)
    | _ => t.maskEdge = false

/-- R241, second half (log 12): at the boundary after a mask edge an asserted irq_line is taken or not by a free bit, so whatever
P.I is, both outcomes are admitted; with the line inactive the edge has no effect. -/
def Obligations.MaskEdgeAdmitsBothOutcomes : Prop :=
  ∀ s : State, s.waiting = false → s.stopped = false → s.maskEdge = true →
    (nextInputs s).reset = false → (nextInputs s).resetInside = false → (sampleInputs s).nmiPending = false →
    let t := sampleInputs s
    (t.irqLine = false → step s = exec (fetchInstr { t with maskEdge := false }).1 (fetchInstr { t with maskEdge := false }).2) ∧
    (t.irqLine = true →
      let u := { t with draws := s.draws + 1 }
      step s =
        if (Config.freeByte s.draws).getLsbD 0 then .next (enterException .irq s.pc u)
        else exec (fetchInstr { u with maskEdge := false }).1 (fetchInstr { u with maskEdge := false }).2)

/-- R246: while stopped nothing happens, whatever irq_line and the NMI input do, except reset. -/
def Obligations.StoppedOnlyResetLeaves : Prop :=
  ∀ s : State, s.stopped = true →
    ((nextInputs s).reset = false → (nextInputs s).resetInside = false →
      step s = .next { s with inputs := s.inputs.tail, irqLine := (nextInputs s).irqLine }) ∧
    ((nextInputs s).reset = true ∨ (nextInputs s).resetInside = true → ∃ t, step s = .next t ∧ t.stopped = false)

/-- R247: one step of the wait. -/
def Obligations.WaitEndsAsSpecified : Prop :=
  ∀ s : State, s.waiting = true → s.stopped = false → (nextInputs s).resetInside = false →
    let t := sampleInputs s
    step s = .next (
      if (nextInputs s).reset then resetSequence t
      else if t.nmiPending then enterException .nmi s.pc t
      else if t.irqLine && !s.p.i then enterException .irq s.pc t
      else if t.irqLine && s.p.i then { t with waiting := false }
      else t)

/-! ## Exceptions, reset, return -/

/-- R236, R233, R36, R15: the vector and the B bit of each cause; and the entry sequence for every state: three bytes handed to the
stack page, the flags, PC, and nothing else but what the vector's reads change. Stack bytes outside RAM are as R33 says. That the
mask edge is over is log 12's reading of R241. -/
def Obligations.ExceptionEntryPushesFrameAndVectors : Prop :=
  (Cause.nmi.vector = 0xFFFA#16 ∧ Cause.irq.vector = 0xFFFE#16 ∧ Cause.brk.vector = 0xFFFE#16 ∧ resetVector = 0xFFFC#16 ∧
   Cause.nmi.bBit = false ∧ Cause.irq.bBit = false ∧ Cause.brk.bBit = true) ∧
  ∀ (c : Cause) (ret : Word) (s : State),
    let t := enterException c ret s
    let hi := ret.extractLsb' 8 8
    let lo := ret.extractLsb' 0 8
    let image := s.p.image c.bBit
    t = { s with
      mem := t.mem
      sp := s.sp - 3
      p := { s.p with i := true, d := false }
      nmiPending := s.nmiPending && c != .nmi
      waiting := false
      maskEdge := false
      pc := t.pc
      deviceLog := t.deviceLog
      draws := t.draws } ∧
    (s.isRam (stackAddr s.sp) → t.byteAt (stackAddr s.sp) = hi) ∧
    (s.isRam (stackAddr (s.sp - 1)) → t.byteAt (stackAddr (s.sp - 1)) = lo) ∧
    (s.isRam (stackAddr (s.sp - 2)) → t.byteAt (stackAddr (s.sp - 2)) = image) ∧
    (∀ b, b ≠ stackAddr s.sp ∧ b ≠ stackAddr (s.sp - 1) ∧ b ≠ stackAddr (s.sp - 2) ∨ ¬ s.isRam b → t.byteAt b = s.byteAt b) ∧
    (s.isPlain c.vector → s.isPlain (c.vector + 1) →
      t.pc = word (s.byteAt (c.vector + 1)) (s.byteAt c.vector) ∧
      t.draws = s.draws ∧
      t.deviceLog = s.handed (stackAddr (s.sp - 2)) image ++ s.handed (stackAddr (s.sp - 1)) lo ++
        s.handed (stackAddr s.sp) hi ++ s.deviceLog)

/-- R206: BRK takes the exception whatever P.I is: return address opcode + 2 (here PC + 1), B = 1 in the image, I set, D cleared,
PC from $FFFE, A, X, Y and the other flags unchanged. That the mask edge is over is log 12's reading of R241. -/
def Obligations.BrkTakesItsException : Prop :=
  encode .brk = some [0x00#8] ∧
  ∀ s : State,
    exec .brk s = .next (enterException .brk (s.pc + 1) s) ∧
    (s.StackInRam → s.isPlain 0xFFFE#16 → s.isPlain 0xFFFF#16 →
      ∃ t, exec .brk s = .next t ∧
        t = { s with
          mem := t.mem
          sp := s.sp - 3
          p := { s.p with i := true, d := false }
          waiting := false
          maskEdge := false
          pc := word (s.byteAt 0xFFFF#16) (s.byteAt 0xFFFE#16) } ∧
        t.byteAt (stackAddr s.sp) = (s.pc + 1).extractLsb' 8 8 ∧
        t.byteAt (stackAddr (s.sp - 1)) = (s.pc + 1).extractLsb' 0 8 ∧
        t.byteAt (stackAddr (s.sp - 2)) = s.p.image true ∧
        ∀ b, b ≠ stackAddr s.sp → b ≠ stackAddr (s.sp - 1) → b ≠ stackAddr (s.sp - 2) → t.byteAt b = s.byteAt b)

/-- R204: RTI pulls P, then PC exactly as pulled, and nothing else; it completes for every state. -/
def Obligations.RtiPullsFlagsAndPc : Prop :=
  encode .rti = some [0x40#8] ∧
  ∀ s : State,
    (∃ t, exec .rti s = .next t ∧
      t = { s with sp := s.sp + 3, p := t.p, pc := t.pc, draws := t.draws, deviceLog := t.deviceLog }) ∧
    (s.FramePlain →
      let v := s.byteAt (stackAddr (s.sp + 1))
      exec .rti s = .next { s with
        sp := s.sp + 3
        p := { n := v.getLsbD 7, v := v.getLsbD 6, d := v.getLsbD 3, i := v.getLsbD 2, z := v.getLsbD 1, c := v.getLsbD 0 }
        pc := word (s.byteAt (stackAddr (s.sp + 3))) (s.byteAt (stackAddr (s.sp + 2))) })

/-- R204, R242: an RTI on the frame an entry left returns to its return address with the old P and S, A, X, Y. -/
def Obligations.RtiUndoesAnEntry : Prop :=
  ∀ (c : Cause) (ret : Word) (s : State), s.StackInRam → s.isPlain c.vector → s.isPlain (c.vector + 1) →
    ∃ u, exec .rti (enterException c ret s) = .next u ∧
      u.pc = ret ∧ u.p = s.p ∧ u.sp = s.sp ∧ u.a = s.a ∧ u.x = s.x ∧ u.y = s.y

/-- R260: the reset sequence from any state, at any boundary. What is `any` in the rule is left unsaid. -/
def Obligations.ResetEventRunsTheResetSequence : Prop :=
  ∀ s : State, (nextInputs s).reset = true → (nextInputs s).resetInside = false →
    ∃ t, step s = .next t ∧
      t.waiting = false ∧ t.stopped = false ∧ t.p.i = true ∧ t.p.d = false ∧ t.mem = s.mem ∧ t.memMap = s.memMap ∧
      (s.isPlain 0xFFFC#16 → s.isPlain 0xFFFD#16 → t.pc = word (s.byteAt 0xFFFD#16) (s.byteAt 0xFFFC#16))

/-- R260, U18, a reset inside a step (log 13): the reset sequence follows; a byte of RAM that the step was writing (R35) holds a free
value, every other byte is as before; of the device accesses the step would have made the newest may be missing, and the others
are made but for the bytes handed over. -/
def Obligations.ResetInsideAStepCutsItShort : Prop :=
  ∀ s t : State, (nextInputs s).resetInside = true → completeStep s = .next t →
    ∃ u, step s = .next u ∧
      u.waiting = false ∧ u.stopped = false ∧ u.p.i = true ∧ u.p.d = false ∧ u.memMap = s.memMap ∧
      u.inputs = t.inputs ∧ u.irqLine = t.irqLine ∧
      (∀ a, a ∉ stepWrites s ∨ ¬ s.isRam a → u.byteAt a = s.byteAt a) ∧
      (∀ a ∈ stepWrites s, s.isRam a → ∃ n, s.draws ≤ n ∧ u.byteAt a = Config.freeByte n) ∧
      (s.isPlain 0xFFFC#16 → s.isPlain 0xFFFD#16 →
        u.pc = word (u.byteAt 0xFFFD#16) (u.byteAt 0xFFFC#16) ∧
        ∃ gone made kept, t.deviceLog = gone ++ made ++ s.deviceLog ∧ u.deviceLog = kept ++ s.deviceLog ∧
          kept.map DeviceAccess.withoutValue = made.map DeviceAccess.withoutValue)

/-- R15: the byte image of P and the load of P from a byte; bits 5 and 4 of the byte are ignored; a pushed P loads back. -/
def Obligations.StatusImageRoundTrip : Prop :=
  (∀ (p : Flags) (b : Bool),
    (p.image b).getLsbD 7 = p.n ∧ (p.image b).getLsbD 6 = p.v ∧ (p.image b).getLsbD 5 = true ∧ (p.image b).getLsbD 4 = b ∧
    (p.image b).getLsbD 3 = p.d ∧ (p.image b).getLsbD 2 = p.i ∧ (p.image b).getLsbD 1 = p.z ∧ (p.image b).getLsbD 0 = p.c ∧
    Flags.ofByte (p.image b) = p) ∧
  (∀ v w : Byte, v &&& 0xCF#8 = w &&& 0xCF#8 → Flags.ofByte v = Flags.ofByte w) ∧
  (∀ v : Byte, (Flags.ofByte v).image (v.getLsbD 4) = v ||| 0x20#8)

/-! ## Operands -/

/-- R57, R58, R61, R62, R63, R64: length and effective address of the modes, the pointers of Indirect,X and Indirect,Y in RAM or ROM.
Zero-page sums and pointers wrap in page zero, Absolute sums modulo 65536. -/
def Obligations.EffectiveAddressesOfIndexedModes : Prop :=
  ∀ (s : State) (z : Byte) (w : Word),
    (Mode.zeroPage.length = 2 ∧ effAddr (.zp z) s = (z.setWidth 16, s) ∧ (effAddr (.zp z) s).1.toNat ≤ 0xFF) ∧
    (Mode.zeroPageX.length = 2 ∧ effAddr (.zpX z) s = ((z + s.x).setWidth 16, s)) ∧
    (Mode.absoluteX.length = 3 ∧ effAddr (.absX w) s = (w + s.x.setWidth 16, s)) ∧
    (Mode.absoluteY.length = 3 ∧ effAddr (.absY w) s = (w + s.y.setWidth 16, s)) ∧
    (Mode.indirectX.length = 2 ∧
      (s.isPlain ((z + s.x).setWidth 16) → s.isPlain ((z + s.x + 1).setWidth 16) →
        effAddr (.indX z) s =
          (s.byteAt ((z + s.x + 1).setWidth 16) ++ s.byteAt ((z + s.x).setWidth 16), s))) ∧
    (Mode.indirectY.length = 2 ∧
      (s.isPlain (z.setWidth 16) → s.isPlain ((z + 1).setWidth 16) →
        effAddr (.indY z) s =
          ((s.byteAt ((z + 1).setWidth 16) ++ s.byteAt (z.setWidth 16)) + s.y.setWidth 16, s)))

/-- R59, R60, R65, R70, R35: the other modes, and the operand value M: one read of the effective address, after the mode's own reads. -/
def Obligations.OperandValueAndOtherModes : Prop :=
  ∀ (s : State) (z : Byte) (w : Word),
    effAddr (.zpY z) s = ((z + s.y).setWidth 16, s) ∧
    effAddr (.abs w) s = (w, s) ∧
    (s.isPlain (z.setWidth 16) → s.isPlain ((z + 1).setWidth 16) →
      effAddr (.zpInd z) s = (s.byteAt ((z + 1).setWidth 16) ++ s.byteAt (z.setWidth 16), s)) ∧
    readOperand (.imm z) s = (z, s) ∧
    (∀ m : MemArg, s.SameButReads (effAddr m s).2 ∧ readOperand (.mem m) s = busRead (effAddr m s).1 (effAddr m s).2) ∧
    (∀ m : MemArg, (effAddr m s).2 = s → s.isPlain (effAddr m s).1 →
      readOperand (.mem m) s = (s.byteAt (effAddr m s).1, s))

/-- R33: a read by region: RAM and ROM give the byte memory holds and change nothing; a device and unmapped space give a free
value, the device access being noted; in every case memory is as before. -/
def Obligations.ReadsByRegion : Prop :=
  ∀ (a : Word) (s : State),
    (s.memMap.regionAt a.toNat = .ram ∨ s.memMap.regionAt a.toNat = .rom → busRead a s = (s.byteAt a, s)) ∧
    (s.memMap.regionAt a.toNat = .device →
      busRead a s = (Config.freeByte s.draws, { s with
        draws := s.draws + 1
        deviceLog := .read a (Config.freeByte s.draws) :: s.deviceLog })) ∧
    (s.memMap.regionAt a.toNat = .unmapped →
      busRead a s = (Config.freeByte s.draws, { s with draws := s.draws + 1 }))

/-! ## Load and store -/

/-- R100, R101, R102: a load completes for every operand: the register, N and Z are written, nothing else but what the operand's
reads change. -/
def Obligations.LoadsSetRegisterAndNZ : Prop :=
  ∀ (o : ReadArg) (s : State),
    let m := (readOperand o s).1
    let t := (readOperand o s).2
    s.SameButReads t ∧
    exec (.lda o) s = .next { t with a := m, p := { s.p with n := m.msb, z := m == 0#8 } } ∧
    exec (.ldx o) s = .next { t with x := m, p := { s.p with n := m.msb, z := m == 0#8 } } ∧
    exec (.ldy o) s = .next { t with y := m, p := { s.p with n := m.msb, z := m == 0#8 } }

/-- R103 to R106, R35: a store completes for every mode and region: after the reads of an indirect mode it hands one byte to the
effective address, which it does not read; no register and no flag changes. -/
def Obligations.StoresWriteOneByte : Prop :=
  ∀ (m : MemArg) (s : State),
    let ea := (effAddr m s).1
    let base := (effAddr m s).2
    s.SameButReads base ∧
    (∃ t, exec (.sta m) s = .next t ∧ ChangesByte base t ea s.a) ∧
    (∃ t, exec (.stx m) s = .next t ∧ ChangesByte base t ea s.x) ∧
    (∃ t, exec (.sty m) s = .next t ∧ ChangesByte base t ea s.y) ∧
    (∃ t, exec (.stz m) s = .next t ∧ ChangesByte base t ea 0x00#8)

/-! ## Transfer -/

/-- R110 to R115: encodings, registers and flags of the six transfers; TXS writes no flag; memory is as before. -/
def Obligations.TransfersMoveRegisters : Prop :=
  (encode .tax = some [0xAA#8] ∧ encode .tay = some [0xA8#8] ∧ encode .tsx = some [0xBA#8] ∧
   encode .txa = some [0x8A#8] ∧ encode .txs = some [0x9A#8] ∧ encode .tya = some [0x98#8]) ∧
  ∀ s : State,
    exec .tax s = .next { s with x := s.a, p := { s.p with n := s.a.msb, z := s.a == 0#8 } } ∧
    exec .tay s = .next { s with y := s.a, p := { s.p with n := s.a.msb, z := s.a == 0#8 } } ∧
    exec .tsx s = .next { s with x := s.sp, p := { s.p with n := s.sp.msb, z := s.sp == 0#8 } } ∧
    exec .txa s = .next { s with a := s.x, p := { s.p with n := s.x.msb, z := s.x == 0#8 } } ∧
    exec .txs s = .next { s with sp := s.x } ∧
    exec .tya s = .next { s with a := s.y, p := { s.p with n := s.y.msb, z := s.y == 0#8 } }

/-! ## Stack -/

/-- R120 to R123: a push stores one byte at $0100 + S and moves S down by one, wrapping; P is pushed with bits 5 and 4 set; it makes
no other access (R35). -/
def Obligations.PushesStoreBelowTheStack : Prop :=
  (encode .pha = some [0x48#8] ∧ encode .php = some [0x08#8] ∧ encode .phx = some [0xDA#8] ∧ encode .phy = some [0x5A#8]) ∧
  ∀ s : State,
    let at_ := 0x0100#16 ||| s.sp.setWidth 16
    let moved := { s with sp := s.sp - 1 }
    (∃ t, exec .pha s = .next t ∧ ChangesByte moved t at_ s.a) ∧
    (∃ t, exec .php s = .next t ∧ ChangesByte moved t at_ (s.p.image true)) ∧
    (∃ t, exec .phx s = .next t ∧ ChangesByte moved t at_ s.x) ∧
    (∃ t, exec .phy s = .next t ∧ ChangesByte moved t at_ s.y)

/-- R124, R125, R126, R127: a pull moves S up by one, wrapping, and loads the byte at $0100 + S; PLA, PLX, PLY set N and Z, PLP
all six flags; that PLP notes the mask edge is log 12's form of R241. -/
def Obligations.PullsLoadAboveTheStack : Prop :=
  (encode .pla = some [0x68#8] ∧ encode .plp = some [0x28#8] ∧ encode .plx = some [0xFA#8] ∧ encode .ply = some [0x7A#8]) ∧
  ∀ s : State,
    let r := busRead (0x0100#16 ||| (s.sp + 1).setWidth 16) { s with sp := s.sp + 1 }
    let v := r.1
    let t := r.2
    let p : Flags :=
      { n := v.getLsbD 7, v := v.getLsbD 6, d := v.getLsbD 3, i := v.getLsbD 2, z := v.getLsbD 1, c := v.getLsbD 0 }
    { s with sp := s.sp + 1 }.SameButReads t ∧
    exec .pla s = .next { t with a := v, p := { s.p with n := v.msb, z := v == 0#8 } } ∧
    exec .plx s = .next { t with x := v, p := { s.p with n := v.msb, z := v == 0#8 } } ∧
    exec .ply s = .next { t with y := v, p := { s.p with n := v.msb, z := v == 0#8 } } ∧
    exec .plp s = .next { t with p := p, maskEdge := s.p.i != p.i }

/-- R128: with the stack byte in RAM, a push followed by the matching pull restores S and returns the byte, and PHP followed by
PLP restores all six flags. -/
def Obligations.PushThenPullRestores : Prop :=
  ∀ s : State, s.isRam (stackAddr s.sp) →
    (∃ t u, exec .pha s = .next t ∧ exec .pla { t with a := 0#8 } = .next u ∧ u.a = s.a ∧ u.sp = s.sp) ∧
    (∃ t u, exec .phx s = .next t ∧ exec .plx { t with x := 0#8 } = .next u ∧ u.x = s.x ∧ u.sp = s.sp) ∧
    (∃ t u, exec .phy s = .next t ∧ exec .ply { t with y := 0#8 } = .next u ∧ u.y = s.y ∧ u.sp = s.sp) ∧
    (∀ q : Flags, ∃ t u, exec .php s = .next t ∧ exec .plp { t with p := q } = .next u ∧ u.p = s.p ∧ u.sp = s.sp)

/-! ## Logic -/

/-- R145, R147, R148: AND, EOR, ORA: A and N, Z; nothing else but what the operand's reads change. -/
def Obligations.LogicalOperationsOnA : Prop :=
  ∀ (o : ReadArg) (s : State),
    let m := (readOperand o s).1
    let t := (readOperand o s).2
    let put (r : Byte) : State := { t with a := r, p := { s.p with n := r.msb, z := r == 0#8 } }
    s.SameButReads t ∧
    exec (.and o) s = .next (put (s.a &&& m)) ∧
    exec (.eor o) s = .next (put (s.a ^^^ m)) ∧
    exec (.ora o) s = .next (put (s.a ||| m))

/-- R146: BIT: Z from A & M; N and V from M in a memory mode only; no register or memory byte is written. -/
def Obligations.BitTestsOperand : Prop :=
  ∀ s : State,
    (∀ v : Byte, exec (.bit (.imm v)) s = .next { s with p := { s.p with z := s.a &&& v == 0#8 } }) ∧
    (∀ m : MemArg,
      let v := (readOperand (.mem m) s).1
      let t := (readOperand (.mem m) s).2
      s.SameButReads t ∧
      exec (.bit (.mem m)) s =
        .next { t with p := { s.p with z := s.a &&& v == 0#8, n := v.getLsbD 7, v := v.getLsbD 6 } })

/-- R141 to R144: the new byte and carry of the shifts and rotates, by arithmetic, in the accumulator form: nothing else changes. -/
def Obligations.ShiftsOfTheAccumulator : Prop :=
  ∀ s : State,
    let put (r : Byte) (c : Bool) : State := { s with a := r, p := { s.p with c := c, n := r.msb, z := r == 0#8 } }
    let n := s.a.toNat
    let c := s.p.c.toNat
    exec (.asl .acc) s = .next (put (BitVec.ofNat 8 (2 * n)) (decide (128 ≤ n))) ∧
    exec (.lsr .acc) s = .next (put (BitVec.ofNat 8 (n / 2)) (decide (n % 2 = 1))) ∧
    exec (.rol .acc) s = .next (put (BitVec.ofNat 8 (2 * n + c)) (decide (128 ≤ n))) ∧
    exec (.ror .acc) s = .next (put (BitVec.ofNat 8 (n / 2 + 128 * c)) (decide (n % 2 = 1)))

/-- R140 to R144, R35: the memory forms: the byte read at the effective address is shifted and written back there, one read then one
write; C, N, Z are written, A and everything else is untouched. -/
def Obligations.ShiftsOfMemory : Prop :=
  ∀ (m : MemArg) (s : State),
    let ea := (effAddr m s).1
    let n := (readOperand (.mem m) s).1.toNat
    let base := (readOperand (.mem m) s).2
    let c := s.p.c.toNat
    let done (t : State) (r : Byte) (c : Bool) : Prop :=
      ChangesByte { base with p := { s.p with c := c, n := r.msb, z := r == 0#8 } } t ea r
    s.SameButReads base ∧
    (∃ t, exec (.asl (.mem m)) s = .next t ∧ done t (BitVec.ofNat 8 (2 * n)) (decide (128 ≤ n))) ∧
    (∃ t, exec (.lsr (.mem m)) s = .next t ∧ done t (BitVec.ofNat 8 (n / 2)) (decide (n % 2 = 1))) ∧
    (∃ t, exec (.rol (.mem m)) s = .next t ∧ done t (BitVec.ofNat 8 (2 * n + c)) (decide (128 ≤ n))) ∧
    (∃ t, exec (.ror (.mem m)) s = .next t ∧ done t (BitVec.ofNat 8 (n / 2 + 128 * c)) (decide (n % 2 = 1)))

/-- R150, R151, R35: TRB and TSB: Z from A & M before the change, one read then one byte written back, nothing else. -/
def Obligations.TestAndChangeBits : Prop :=
  (∀ z w, encode (.trb (.zp z)) = some [0x14#8, z] ∧ encode (.trb (.abs w)) = some [0x1C#8, loByte w, hiByte w] ∧
    encode (.tsb (.zp z)) = some [0x04#8, z] ∧ encode (.tsb (.abs w)) = some [0x0C#8, loByte w, hiByte w]) ∧
  ∀ (m : MemArg) (s : State),
    let ea := (effAddr m s).1
    let v := (readOperand (.mem m) s).1
    let base := (readOperand (.mem m) s).2
    let tested := { base with p := { s.p with z := s.a &&& v == 0#8 } }
    s.SameButReads base ∧
    (∃ t, exec (.trb m) s = .next t ∧ ChangesByte tested t ea (v &&& ~~~s.a)) ∧
    (∃ t, exec (.tsb m) s = .next t ∧ ChangesByte tested t ea (v ||| s.a))

/-- R153, R154, R35: RMBn and SMBn clear and set bit n of a zero-page byte, one read then one write; no flag, no register. -/
def Obligations.BitInstructionsChangeOneBit : Prop :=
  ∀ (z : Byte) (s : State),
    let v := (busRead (z.setWidth 16) s).1
    let base := (busRead (z.setWidth 16) s).2
    s.SameButReads base ∧
    (∀ c ∈ [(Instr.rmb0 z, 0), (.rmb1 z, 1), (.rmb2 z, 2), (.rmb3 z, 3), (.rmb4 z, 4), (.rmb5 z, 5), (.rmb6 z, 6), (.rmb7 z, 7)],
      encode c.1 = some [BitVec.ofNat 8 (16 * c.2 + 7), z] ∧
      ∃ t r, exec c.1 s = .next t ∧ ChangesByte base t (z.setWidth 16) r ∧
        ∀ k < 8, r.getLsbD k = (v.getLsbD k && k != c.2)) ∧
    (∀ c ∈ [(Instr.smb0 z, 0), (.smb1 z, 1), (.smb2 z, 2), (.smb3 z, 3), (.smb4 z, 4), (.smb5 z, 5), (.smb6 z, 6), (.smb7 z, 7)],
      encode c.1 = some [BitVec.ofNat 8 (16 * (8 + c.2) + 7), z] ∧
      ∃ t r, exec c.1 s = .next t ∧ ChangesByte base t (z.setWidth 16) r ∧
        ∀ k < 8, r.getLsbD k = (v.getLsbD k || k == c.2))

/-- R152: NOP changes nothing. -/
def Obligations.NopChangesNothing : Prop :=
  encode .nop = some [0xEA#8] ∧ ∀ s : State, exec .nop s = .next s

/-! ## Math -/

/-- R160, R173: binary ADC for every operand: the sum modulo 256, C its unsigned overflow, V its signed overflow, N and Z of it. -/
def Obligations.BinaryAddWithCarry : Prop :=
  ∀ (o : ReadArg) (s : State), s.p.d = false →
    let m := (readOperand o s).1
    let t := (readOperand o s).2
    let sum := s.a.toNat + m.toNat + s.p.c.toNat
    let signed := s.a.toInt + m.toInt + s.p.c.toNat
    let r := BitVec.ofNat 8 sum
    s.SameButReads t ∧
    exec (.adc o) s = .next { t with
      a := r
      p := { s.p with n := r.msb, z := r == 0#8, c := decide (255 < sum), v := decide (signed < -128 ∨ 127 < signed) } }

/-- R161, R173: binary SBC for every operand: A - M - (1 - C), C = 1 exactly where there is no borrow, V the signed overflow. -/
def Obligations.BinarySubtractWithBorrow : Prop :=
  ∀ (o : ReadArg) (s : State), s.p.d = false →
    let m := (readOperand o s).1
    let t := (readOperand o s).2
    let borrow := 1 - s.p.c.toNat
    let signed := s.a.toInt - m.toInt - borrow
    let r := s.a - m - BitVec.ofNat 8 borrow
    s.SameButReads t ∧
    exec (.sbc o) s = .next { t with
      a := r
      p := { s.p with n := r.msb, z := r == 0#8, c := decide (m.toNat + borrow ≤ s.a.toNat),
                      v := decide (signed < -128 ∨ 127 < signed) } }

/-- R162: decimal ADC of valid BCD operands: A is the decimal sum modulo 100 in BCD, C tells that it exceeded 99, N and Z are of
that byte; V is a free value and is left unsaid. -/
def Obligations.DecimalAddOfValidBcd : Prop :=
  ∀ (o : ReadArg) (s : State), s.p.d = true → validBcd s.a = true → validBcd (readOperand o s).1 = true →
    let m := (readOperand o s).1
    let u := (readOperand o s).2
    let sum := bcdValue s.a + bcdValue m + s.p.c.toNat
    s.SameButReads u ∧
    ∃ t, exec (.adc o) s = .next t ∧
      t = { u with a := t.a, p := { s.p with n := t.a.msb, z := t.a == 0#8, c := decide (99 < sum), v := t.p.v }, draws := u.draws + 1 } ∧
      validBcd t.a = true ∧ bcdValue t.a = sum % 100

/-- R163: decimal SBC of valid BCD operands: A is the decimal difference modulo 100 in BCD, C = 1 where there is no borrow; V is a
free value and is left unsaid. -/
def Obligations.DecimalSubtractOfValidBcd : Prop :=
  ∀ (o : ReadArg) (s : State), s.p.d = true → validBcd s.a = true → validBcd (readOperand o s).1 = true →
    let m := (readOperand o s).1
    let u := (readOperand o s).2
    let borrow := 1 - s.p.c.toNat
    s.SameButReads u ∧
    ∃ t, exec (.sbc o) s = .next t ∧
      t = { u with
        a := t.a
        p := { s.p with n := t.a.msb, z := t.a == 0#8, c := decide (bcdValue m + borrow ≤ bcdValue s.a), v := t.p.v }
        draws := u.draws + 1 } ∧
      validBcd t.a = true ∧ bcdValue t.a = (100 + bcdValue s.a - bcdValue m - borrow) % 100

/-- R162, R163 under the model's DECIMAL_POLICY (log 4): with an operand that is no valid BCD, ADC and SBC complete; A, N, V, Z, C
are free values and left unsaid, and nothing else changes. -/
def Obligations.DecimalOfInvalidBcdCompletes : Prop :=
  ∀ (o : ReadArg) (s : State), s.p.d = true → (validBcd s.a && validBcd (readOperand o s).1) = false →
    let u := (readOperand o s).2
    s.SameButReads u ∧
    ∀ i ∈ [Instr.adc o, .sbc o], ∃ t, exec i s = .next t ∧
      t = { u with a := t.a, p := { s.p with n := t.p.n, v := t.p.v, z := t.p.z, c := t.p.c }, draws := u.draws + 2 }

/-- R164, R165, R166: CMP, CPX, CPY: C unsigned, Z equality, N bit 7 of the difference; V, D, I and every register unchanged. -/
def Obligations.ComparesSetCarryZeroNegative : Prop :=
  ∀ (o : ReadArg) (s : State),
    let m := (readOperand o s).1
    let t := (readOperand o s).2
    let compared (reg : Byte) : State :=
      { t with p := { s.p with c := decide (m.toNat ≤ reg.toNat), z := decide (reg = m), n := (reg - m).msb } }
    s.SameButReads t ∧
    exec (.cmp o) s = .next (compared s.a) ∧
    exec (.cpx o) s = .next (compared s.x) ∧
    exec (.cpy o) s = .next (compared s.y)

/-- R167, R170, R35: INC and DEC in the accumulator and the memory form (one read then one write): N and Z; C and V are not changed. -/
def Obligations.IncrementsAndDecrements : Prop :=
  ∀ (m : MemArg) (s : State),
    let ea := (effAddr m s).1
    let v := (readOperand (.mem m) s).1
    let base := (readOperand (.mem m) s).2
    let flags (r : Byte) : Flags := { s.p with n := r.msb, z := r == 0#8 }
    s.SameButReads base ∧
    exec (.inc .acc) s = .next { s with a := s.a + 1, p := flags (s.a + 1) } ∧
    exec (.dec .acc) s = .next { s with a := s.a - 1, p := flags (s.a - 1) } ∧
    (∃ t, exec (.inc (.mem m)) s = .next t ∧ ChangesByte { base with p := flags (v + 1) } t ea (v + 1)) ∧
    (∃ t, exec (.dec (.mem m)) s = .next t ∧ ChangesByte { base with p := flags (v - 1) } t ea (v - 1))

/-- R168, R169, R171, R172: INX, INY, DEX, DEY wrap modulo 256 and set N and Z. -/
def Obligations.IndexRegisterSteps : Prop :=
  (encode .inx = some [0xE8#8] ∧ encode .iny = some [0xC8#8] ∧ encode .dex = some [0xCA#8] ∧ encode .dey = some [0x88#8]) ∧
  ∀ s : State,
    let flags (r : Byte) : Flags := { s.p with n := r.msb, z := r == 0#8 }
    exec .inx s = .next { s with x := s.x + 1, p := flags (s.x + 1) } ∧
    exec .iny s = .next { s with y := s.y + 1, p := flags (s.y + 1) } ∧
    exec .dex s = .next { s with x := s.x - 1, p := flags (s.x - 1) } ∧
    exec .dey s = .next { s with y := s.y - 1, p := flags (s.y - 1) }

/-! ## Branch -/

/-- R181 to R188, R200, R180: the flag each branch tests, its encoding and its target; nothing but PC changes. -/
def Obligations.RelativeBranches : Prop :=
  ∀ (d : Byte) (s : State),
    let dest (taken : Bool) : State := { s with pc := if taken then s.pc + d.signExtend 16 else s.pc }
    (∀ c ∈ [(Instr.bcc d, 0x90#8, !s.p.c), (.bcs d, 0xB0#8, s.p.c), (.beq d, 0xF0#8, s.p.z), (.bmi d, 0x30#8, s.p.n),
            (.bne d, 0xD0#8, !s.p.z), (.bpl d, 0x10#8, !s.p.n), (.bvc d, 0x50#8, !s.p.v), (.bvs d, 0x70#8, s.p.v),
            (.bra d, 0x80#8, true)],
      encode c.1 = some [c.2.1, d] ∧ exec c.1 s = .next (dest c.2.2))

/-- R189, R190: BBRn and BBSn read one zero-page byte and branch on bit n; nothing but PC changes, and what the read changes. -/
def Obligations.BranchesOnMemoryBit : Prop :=
  ∀ (z d : Byte) (s : State),
    let m := (busRead (z.setWidth 16) s).1
    let t := (busRead (z.setWidth 16) s).2
    s.SameButReads t ∧
    (∀ c ∈ [(Instr.bbr0 z d, 0), (.bbr1 z d, 1), (.bbr2 z d, 2), (.bbr3 z d, 3),
            (.bbr4 z d, 4), (.bbr5 z d, 5), (.bbr6 z d, 6), (.bbr7 z d, 7)],
      encode c.1 = some [BitVec.ofNat 8 (16 * c.2 + 15), z, d] ∧
      exec c.1 s = .next { t with pc := if m.getLsbD c.2 then s.pc else s.pc + d.signExtend 16 }) ∧
    (∀ c ∈ [(Instr.bbs0 z d, 0), (.bbs1 z d, 1), (.bbs2 z d, 2), (.bbs3 z d, 3),
            (.bbs4 z d, 4), (.bbs5 z d, 5), (.bbs6 z d, 6), (.bbs7 z d, 7)],
      encode c.1 = some [BitVec.ofNat 8 (16 * (8 + c.2) + 15), z, d] ∧
      exec c.1 s = .next { t with pc := if m.getLsbD c.2 then s.pc + d.signExtend 16 else s.pc })

/-! ## Flow -/

/-- R201 with JMP_IND_PAGE_END = cmos (log 3, R202): the three forms of JMP; only PC changes, and what the pointer reads change. -/
def Obligations.JumpTargets : Prop :=
  ∀ (w : Word) (s : State),
    exec (.jmp (.abs w)) s = .next { s with pc := w } ∧
    (∃ t, exec (.jmp (.ind w)) s = .next t ∧ { s with pc := t.pc }.SameButReads t) ∧
    (∃ t, exec (.jmp (.absX w)) s = .next t ∧ { s with pc := t.pc }.SameButReads t) ∧
    (s.isPlain w → s.isPlain (w + 1) →
      exec (.jmp (.ind w)) s = .next { s with pc := s.byteAt (w + 1) ++ s.byteAt w }) ∧
    (let p := w + s.x.setWidth 16
     s.isPlain p → s.isPlain (p + 1) →
      exec (.jmp (.absX w)) s = .next { s with pc := s.byteAt (p + 1) ++ s.byteAt p })

/-- R203, R35: JSR pushes the address of its own third byte (PC - 1), high byte first, and jumps; it completes for every state, makes
two writes and no other access, and only RAM at the two stack addresses changes. -/
def Obligations.JsrPushesReturnAddressMinusOne : Prop :=
  ∀ (w : Word) (s : State),
    encode (.jsr w) = some [0x20#8, loByte w, hiByte w] ∧
    let hi := (s.pc - 1).extractLsb' 8 8
    let lo := (s.pc - 1).extractLsb' 0 8
    ∃ t, exec (.jsr w) s = .next t ∧
      t = { s with
        pc := w
        sp := s.sp - 2
        mem := t.mem
        deviceLog := s.handed (stackAddr (s.sp - 1)) lo ++ s.handed (stackAddr s.sp) hi ++ s.deviceLog } ∧
      (∀ b, b ≠ stackAddr s.sp ∧ b ≠ stackAddr (s.sp - 1) ∨ ¬ s.isRam b → t.byteAt b = s.byteAt b) ∧
      (s.isRam (stackAddr s.sp) → t.byteAt (stackAddr s.sp) = hi) ∧
      (s.isRam (stackAddr (s.sp - 1)) → t.byteAt (stackAddr (s.sp - 1)) = lo)

/-- R205: RTS pulls two bytes, low first, and continues at the address plus 1; it completes for every state. -/
def Obligations.RtsContinuesAfterPulledAddress : Prop :=
  encode .rts = some [0x60#8] ∧
  ∀ s : State,
    (∃ t, exec .rts s = .next t ∧
      t = { s with sp := s.sp + 2, pc := t.pc, draws := t.draws, deviceLog := t.deviceLog }) ∧
    (s.isPlain (stackAddr (s.sp + 1)) → s.isPlain (stackAddr (s.sp + 2)) →
      exec .rts s = .next { s with
        sp := s.sp + 2
        pc := (s.byteAt (stackAddr (s.sp + 2)) ++ s.byteAt (stackAddr (s.sp + 1))) + 1 })

/-- R203, R205: with the stack in RAM, an RTS on the bytes a JSR left continues at the instruction after the JSR. -/
def Obligations.RtsUndoesJsr : Prop :=
  ∀ (w : Word) (s : State), s.isRam (stackAddr s.sp) → s.isRam (stackAddr (s.sp - 1)) →
    ∃ t u, exec (.jsr w) s = .next t ∧ exec .rts t = .next u ∧ u = { s with mem := u.mem }

/-- R207, R208: STP and WAI set their state and change nothing else. -/
def Obligations.StpStopsAndWaiWaits : Prop :=
  encode .stp = some [0xDB#8] ∧ encode .wai = some [0xCB#8] ∧
  ∀ s : State, exec .stp s = .next { s with stopped := true } ∧ exec .wai s = .next { s with waiting := true }

/-! ## Flags -/

/-- R220 to R226: each writes one flag; that CLI and SEI also note the mask edge is log 12's form of R241. -/
def Obligations.FlagInstructionsWriteOneFlag : Prop :=
  (encode .clc = some [0x18#8] ∧ encode .cld = some [0xD8#8] ∧ encode .cli = some [0x58#8] ∧ encode .clv = some [0xB8#8] ∧
   encode .sec = some [0x38#8] ∧ encode .sed = some [0xF8#8] ∧ encode .sei = some [0x78#8]) ∧
  ∀ s : State,
    exec .clc s = .next { s with p := { s.p with c := false } } ∧
    exec .cld s = .next { s with p := { s.p with d := false } } ∧
    exec .cli s = .next { s with p := { s.p with i := false }, maskEdge := s.p.i } ∧
    exec .clv s = .next { s with p := { s.p with v := false } } ∧
    exec .sec s = .next { s with p := { s.p with c := true } } ∧
    exec .sed s = .next { s with p := { s.p with d := true } } ∧
    exec .sei s = .next { s with p := { s.p with i := true }, maskEdge := !s.p.i }

/-! ## Reserved bytes -/

/-- R90 with RESERVED_OPCODE_POLICY = nop (log 2): a reserved byte changes nothing; and at a quiet boundary a step on one moves PC
over its length and does nothing else but that, as after every fetch, the mask edge is over (log 12's reading of R241). -/
def Obligations.ReservedBytesDoNothing : Prop :=
  (∀ (op : Byte) (skipped : List Byte) (s : State), exec (.reserved op skipped) s = .next s) ∧
  (∀ (s : State) (l : Nat), s.Quiet → s.isPlain s.pc → s.isPlain (s.pc + 1) → s.isPlain (s.pc + 2) →
    reservedLength (s.byteAt s.pc) = some l →
    step s = .next { s with pc := s.pc + BitVec.ofNat 16 l, maskEdge := false }) ∧
  ((List.range 256).filter fun n => (reservedLength (BitVec.ofNat 8 n)).isSome).length = 44

/-! ## Whole-machine rules -/

/-- R17: which instructions write each flag; an instruction not listed leaves the flag unchanged. -/
def Obligations.FlagsHaveOnlyTheirWriters : Prop :=
  ∀ (i : Instr) (s t : State), exec i s = .next t →
    (match i with
      | .lda _ | .ldx _ | .ldy _ | .tax | .tay | .tsx | .txa | .tya | .pla | .plx | .ply | .asl _ | .lsr _ | .rol _ | .ror _
      | .and _ | .eor _ | .ora _ | .adc _ | .sbc _ | .cmp _ | .cpx _ | .cpy _ | .inc _ | .inx | .iny | .dec _ | .dex | .dey
      | .bit (.mem _) | .plp | .rti => True
      | _ => t.p.n = s.p.n) ∧
    (match i with
      | .adc _ | .sbc _ | .bit (.mem _) | .clv | .plp | .rti => True
      | _ => t.p.v = s.p.v) ∧
    (match i with
      | .cld | .sed | .plp | .rti | .brk => True
      | _ => t.p.d = s.p.d) ∧
    (match i with
      | .cli | .sei | .plp | .rti | .brk => True
      | _ => t.p.i = s.p.i) ∧
    (match i with
      | .lda _ | .ldx _ | .ldy _ | .tax | .tay | .tsx | .txa | .tya | .pla | .plx | .ply | .asl _ | .lsr _ | .rol _ | .ror _
      | .and _ | .eor _ | .ora _ | .adc _ | .sbc _ | .cmp _ | .cpx _ | .cpy _ | .inc _ | .inx | .iny | .dec _ | .dex | .dey
      | .bit _ | .trb _ | .tsb _ | .plp | .rti => True
      | _ => t.p.z = s.p.z) ∧
    (match i with
      | .adc _ | .sbc _ | .cmp _ | .cpx _ | .cpy _ | .asl _ | .lsr _ | .rol _ | .ror _ | .clc | .sec | .plp | .rti => True
      | _ => t.p.c = s.p.c)

/-- R11, R12, R13, R18, R35: which instructions write A, X, Y, S, PC (beyond the advance), memory and the wait and stop states; no
instruction touches nmi_pending, irq_line, the coming inputs or the memory map. -/
def Obligations.RegistersHaveOnlyTheirWriters : Prop :=
  ∀ (i : Instr) (s t : State), exec i s = .next t →
    (match i with
      | .lda _ | .pla | .txa | .tya | .adc _ | .sbc _ | .and _ | .eor _ | .ora _
      | .asl .acc | .lsr .acc | .rol .acc | .ror .acc | .inc .acc | .dec .acc => True
      | _ => t.a = s.a) ∧
    (match i with
      | .ldx _ | .plx | .tax | .tsx | .inx | .dex => True
      | _ => t.x = s.x) ∧
    (match i with
      | .ldy _ | .ply | .tay | .iny | .dey => True
      | _ => t.y = s.y) ∧
    (match i with
      | .txs | .pha | .php | .phx | .phy | .pla | .plp | .plx | .ply | .jsr _ | .rts | .rti | .brk => True
      | _ => t.sp = s.sp) ∧
    (match i with
      | .bcc _ | .bcs _ | .beq _ | .bmi _ | .bne _ | .bpl _ | .bvc _ | .bvs _ | .bra _
      | .bbr0 _ _ | .bbr1 _ _ | .bbr2 _ _ | .bbr3 _ _ | .bbr4 _ _ | .bbr5 _ _ | .bbr6 _ _ | .bbr7 _ _
      | .bbs0 _ _ | .bbs1 _ _ | .bbs2 _ _ | .bbs3 _ _ | .bbs4 _ _ | .bbs5 _ _ | .bbs6 _ _ | .bbs7 _ _
      | .jmp _ | .jsr _ | .rts | .rti | .brk => True
      | _ => t.pc = s.pc) ∧
    (match i with
      | .sta _ | .stx _ | .sty _ | .stz _ | .asl (.mem _) | .lsr (.mem _) | .rol (.mem _) | .ror (.mem _)
      | .inc (.mem _) | .dec (.mem _) | .tsb _ | .trb _
      | .rmb0 _ | .rmb1 _ | .rmb2 _ | .rmb3 _ | .rmb4 _ | .rmb5 _ | .rmb6 _ | .rmb7 _
      | .smb0 _ | .smb1 _ | .smb2 _ | .smb3 _ | .smb4 _ | .smb5 _ | .smb6 _ | .smb7 _
      | .pha | .php | .phx | .phy | .jsr _ | .brk => True
      | _ => t.mem = s.mem) ∧
    (match i with
      | .wai | .brk => True
      | _ => t.waiting = s.waiting) ∧
    (match i with
      | .stp => True
      | _ => t.stopped = s.stopped) ∧
    t.nmiPending = s.nmiPending ∧ t.irqLine = s.irqLine ∧ t.inputs = s.inputs ∧ t.memMap = s.memMap
end

