-- ==== Sys2Proof/Laws/Memory.lean ====
section
/-! SUPPORT. The laws of memory: reading back a write, leaving other addresses alone, keeping the canonical form. -/

namespace Sys2Proof.Machine

/-- Reading after removing an address: that address is unlisted, others are as before. -/
theorem Memory.read_erase (m : Memory) (a b : Nat) :
    (m.erase a).read b = if b = a then unlistedByte else m.read b := by
  induction m with
  | nil => simp [Memory.erase, Memory.read]
  | cons c rest ih =>
    obtain ⟨k, v⟩ := c
    simp only [Memory.erase, List.filter_cons, bne_iff_ne, ne_eq] at ih ⊢
    by_cases hk : k = a
    · subst hk
      simp only [not_true_eq_false, if_false, ih, Memory.read]
      split <;> rfl
    · simp only [hk, not_false_eq_true, if_true, Memory.read, ih]
      by_cases hb : b = k
      · subst hb; simp [hk]
      · simp [hb]

/-- An address that was removed is not listed. -/
theorem Memory.not_mem_erase (m : Memory) (a : Nat) : ∀ c ∈ m.erase a, c.1 ≠ a := by
  intro c hc
  simpa using (List.mem_filter.mp hc).2

/-- Reading after inserting a cell of an address that was not listed. -/
theorem Memory.read_insert (c : Host.Cell) (m : Memory) (b : Nat) (fresh : ∀ d ∈ m, d.1 ≠ c.1) :
    (Memory.insert c m).read b = if b = c.1 then c.2 else m.read b := by
  induction m with
  | nil => simp [Memory.insert, Memory.read]
  | cons d rest ih =>
    have hd : d.1 ≠ c.1 := fresh d (by simp)
    have ih := ih fun e he => fresh e (by simp [he])
    simp only [Memory.insert]
    split
    · simp [Memory.read]
    · simp only [Memory.read, ih]
      by_cases hb : b = d.1
      · simp [hb, hd]
      · simp [hb]

/-- Reading after a write: the address written gives the byte, every other address reads as before. -/
theorem Memory.read_write (m : Memory) (a b : Nat) (v : Byte) :
    (m.write a v).read b = if b = a then v else m.read b := by
  unfold Memory.write
  split
  · next h => rw [Memory.read_erase, h]
  · rw [Memory.read_insert _ _ _ (m.not_mem_erase a), Memory.read_erase]
    split <;> rfl

@[simp] theorem Memory.read_write_same (m : Memory) (a : Nat) (v : Byte) : (m.write a v).read a = v := by
  simp [Memory.read_write]

theorem Memory.read_write_other (m : Memory) {a b : Nat} (v : Byte) (h : b ≠ a) :
    (m.write a v).read b = m.read b := by
  simp [Memory.read_write, h]

/-- The cells after an insertion are the cell and those before. -/
theorem Memory.mem_insert (c d : Host.Cell) (m : Memory) : d ∈ Memory.insert c m ↔ d = c ∨ d ∈ m := by
  induction m with
  | nil => simp [Memory.insert]
  | cons e rest ih =>
    simp only [Memory.insert]
    split
    · simp
    · simp only [List.mem_cons, ih]; tauto

/-- Removing an address keeps the canonical form. -/
theorem Memory.erase_wf {m : Memory} (a : Nat) (h : m.wf) : (m.erase a).wf :=
  ⟨h.1.filter _, fun c hc => h.2 c (List.mem_filter.mp hc).1⟩

/-- Inserting a cell of an address that was not listed keeps the addresses rising. -/
theorem Memory.insert_sorted (c : Host.Cell) (m : Memory) (h : m.Pairwise fun d e => d.1 < e.1)
    (fresh : ∀ d ∈ m, d.1 ≠ c.1) : (Memory.insert c m).Pairwise fun d e => d.1 < e.1 := by
  induction m with
  | nil => simp [Memory.insert]
  | cons d rest ih =>
    rw [List.pairwise_cons] at h
    simp only [Memory.insert]
    split
    · next hlt =>
      refine List.pairwise_cons.mpr ⟨fun e he => ?_, List.pairwise_cons.mpr h⟩
      rcases List.mem_cons.mp he with rfl | he
      · exact hlt
      · exact Nat.lt_trans hlt (h.1 e he)
    · next hge =>
      refine List.pairwise_cons.mpr ⟨fun e he => ?_, ih h.2 fun e he => fresh e (by simp [he])⟩
      rcases (Memory.mem_insert c e rest).mp he with rfl | he
      · have := fresh d (by simp); omega
      · exact h.1 e he

/-- A write within the address space keeps the canonical form. -/
theorem Memory.write_wf {m : Memory} {a : Nat} (v : Byte) (ha : a < addressCount) (h : m.wf) : (m.write a v).wf := by
  unfold Memory.write
  split
  · exact m.erase_wf a h
  · next hv =>
    have he := Memory.erase_wf a h
    refine ⟨Memory.insert_sorted _ _ he.1 (m.not_mem_erase a), fun c hc => ?_⟩
    rcases (Memory.mem_insert _ c _).mp hc with rfl | hc
    · exact ⟨ha, hv⟩
    · exact he.2 c hc

end Sys2Proof.Machine
end

