-- ==== Sys2Proof/Laws/State.lean ====
section
/-! SUPPORT. What each update of a field leaves: one lemma per field per update, so that no proof unfolds a record update. -/

namespace Sys2Proof.Machine

/-! ### State.setA -/
@[simp] theorem State.setA_a (s : State) (v : Byte) : (s.setA v).a = v := rfl
@[simp] theorem State.setA_x (s : State) (v : Byte) : (s.setA v).x = s.x := rfl
@[simp] theorem State.setA_y (s : State) (v : Byte) : (s.setA v).y = s.y := rfl
@[simp] theorem State.setA_sp (s : State) (v : Byte) : (s.setA v).sp = s.sp := rfl
@[simp] theorem State.setA_pc (s : State) (v : Byte) : (s.setA v).pc = s.pc := rfl
@[simp] theorem State.setA_p (s : State) (v : Byte) : (s.setA v).p = s.p := rfl
@[simp] theorem State.setA_mem (s : State) (v : Byte) : (s.setA v).mem = s.mem := rfl
@[simp] theorem State.setA_memMap (s : State) (v : Byte) : (s.setA v).memMap = s.memMap := rfl
@[simp] theorem State.setA_nmiPending (s : State) (v : Byte) : (s.setA v).nmiPending = s.nmiPending := rfl
@[simp] theorem State.setA_waiting (s : State) (v : Byte) : (s.setA v).waiting = s.waiting := rfl
@[simp] theorem State.setA_stopped (s : State) (v : Byte) : (s.setA v).stopped = s.stopped := rfl
@[simp] theorem State.setA_irqLine (s : State) (v : Byte) : (s.setA v).irqLine = s.irqLine := rfl
@[simp] theorem State.setA_maskEdge (s : State) (v : Byte) : (s.setA v).maskEdge = s.maskEdge := rfl
@[simp] theorem State.setA_inputs (s : State) (v : Byte) : (s.setA v).inputs = s.inputs := rfl
@[simp] theorem State.setA_deviceLog (s : State) (v : Byte) : (s.setA v).deviceLog = s.deviceLog := rfl
@[simp] theorem State.setA_draws (s : State) (v : Byte) : (s.setA v).draws = s.draws := rfl

/-! ### State.setX -/
@[simp] theorem State.setX_a (s : State) (v : Byte) : (s.setX v).a = s.a := rfl
@[simp] theorem State.setX_x (s : State) (v : Byte) : (s.setX v).x = v := rfl
@[simp] theorem State.setX_y (s : State) (v : Byte) : (s.setX v).y = s.y := rfl
@[simp] theorem State.setX_sp (s : State) (v : Byte) : (s.setX v).sp = s.sp := rfl
@[simp] theorem State.setX_pc (s : State) (v : Byte) : (s.setX v).pc = s.pc := rfl
@[simp] theorem State.setX_p (s : State) (v : Byte) : (s.setX v).p = s.p := rfl
@[simp] theorem State.setX_mem (s : State) (v : Byte) : (s.setX v).mem = s.mem := rfl
@[simp] theorem State.setX_memMap (s : State) (v : Byte) : (s.setX v).memMap = s.memMap := rfl
@[simp] theorem State.setX_nmiPending (s : State) (v : Byte) : (s.setX v).nmiPending = s.nmiPending := rfl
@[simp] theorem State.setX_waiting (s : State) (v : Byte) : (s.setX v).waiting = s.waiting := rfl
@[simp] theorem State.setX_stopped (s : State) (v : Byte) : (s.setX v).stopped = s.stopped := rfl
@[simp] theorem State.setX_irqLine (s : State) (v : Byte) : (s.setX v).irqLine = s.irqLine := rfl
@[simp] theorem State.setX_maskEdge (s : State) (v : Byte) : (s.setX v).maskEdge = s.maskEdge := rfl
@[simp] theorem State.setX_inputs (s : State) (v : Byte) : (s.setX v).inputs = s.inputs := rfl
@[simp] theorem State.setX_deviceLog (s : State) (v : Byte) : (s.setX v).deviceLog = s.deviceLog := rfl
@[simp] theorem State.setX_draws (s : State) (v : Byte) : (s.setX v).draws = s.draws := rfl

/-! ### State.setY -/
@[simp] theorem State.setY_a (s : State) (v : Byte) : (s.setY v).a = s.a := rfl
@[simp] theorem State.setY_x (s : State) (v : Byte) : (s.setY v).x = s.x := rfl
@[simp] theorem State.setY_y (s : State) (v : Byte) : (s.setY v).y = v := rfl
@[simp] theorem State.setY_sp (s : State) (v : Byte) : (s.setY v).sp = s.sp := rfl
@[simp] theorem State.setY_pc (s : State) (v : Byte) : (s.setY v).pc = s.pc := rfl
@[simp] theorem State.setY_p (s : State) (v : Byte) : (s.setY v).p = s.p := rfl
@[simp] theorem State.setY_mem (s : State) (v : Byte) : (s.setY v).mem = s.mem := rfl
@[simp] theorem State.setY_memMap (s : State) (v : Byte) : (s.setY v).memMap = s.memMap := rfl
@[simp] theorem State.setY_nmiPending (s : State) (v : Byte) : (s.setY v).nmiPending = s.nmiPending := rfl
@[simp] theorem State.setY_waiting (s : State) (v : Byte) : (s.setY v).waiting = s.waiting := rfl
@[simp] theorem State.setY_stopped (s : State) (v : Byte) : (s.setY v).stopped = s.stopped := rfl
@[simp] theorem State.setY_irqLine (s : State) (v : Byte) : (s.setY v).irqLine = s.irqLine := rfl
@[simp] theorem State.setY_maskEdge (s : State) (v : Byte) : (s.setY v).maskEdge = s.maskEdge := rfl
@[simp] theorem State.setY_inputs (s : State) (v : Byte) : (s.setY v).inputs = s.inputs := rfl
@[simp] theorem State.setY_deviceLog (s : State) (v : Byte) : (s.setY v).deviceLog = s.deviceLog := rfl
@[simp] theorem State.setY_draws (s : State) (v : Byte) : (s.setY v).draws = s.draws := rfl

/-! ### State.setSp -/
@[simp] theorem State.setSp_a (s : State) (v : Byte) : (s.setSp v).a = s.a := rfl
@[simp] theorem State.setSp_x (s : State) (v : Byte) : (s.setSp v).x = s.x := rfl
@[simp] theorem State.setSp_y (s : State) (v : Byte) : (s.setSp v).y = s.y := rfl
@[simp] theorem State.setSp_sp (s : State) (v : Byte) : (s.setSp v).sp = v := rfl
@[simp] theorem State.setSp_pc (s : State) (v : Byte) : (s.setSp v).pc = s.pc := rfl
@[simp] theorem State.setSp_p (s : State) (v : Byte) : (s.setSp v).p = s.p := rfl
@[simp] theorem State.setSp_mem (s : State) (v : Byte) : (s.setSp v).mem = s.mem := rfl
@[simp] theorem State.setSp_memMap (s : State) (v : Byte) : (s.setSp v).memMap = s.memMap := rfl
@[simp] theorem State.setSp_nmiPending (s : State) (v : Byte) : (s.setSp v).nmiPending = s.nmiPending := rfl
@[simp] theorem State.setSp_waiting (s : State) (v : Byte) : (s.setSp v).waiting = s.waiting := rfl
@[simp] theorem State.setSp_stopped (s : State) (v : Byte) : (s.setSp v).stopped = s.stopped := rfl
@[simp] theorem State.setSp_irqLine (s : State) (v : Byte) : (s.setSp v).irqLine = s.irqLine := rfl
@[simp] theorem State.setSp_maskEdge (s : State) (v : Byte) : (s.setSp v).maskEdge = s.maskEdge := rfl
@[simp] theorem State.setSp_inputs (s : State) (v : Byte) : (s.setSp v).inputs = s.inputs := rfl
@[simp] theorem State.setSp_deviceLog (s : State) (v : Byte) : (s.setSp v).deviceLog = s.deviceLog := rfl
@[simp] theorem State.setSp_draws (s : State) (v : Byte) : (s.setSp v).draws = s.draws := rfl

/-! ### State.setPc -/
@[simp] theorem State.setPc_a (s : State) (v : Word) : (s.setPc v).a = s.a := rfl
@[simp] theorem State.setPc_x (s : State) (v : Word) : (s.setPc v).x = s.x := rfl
@[simp] theorem State.setPc_y (s : State) (v : Word) : (s.setPc v).y = s.y := rfl
@[simp] theorem State.setPc_sp (s : State) (v : Word) : (s.setPc v).sp = s.sp := rfl
@[simp] theorem State.setPc_pc (s : State) (v : Word) : (s.setPc v).pc = v := rfl
@[simp] theorem State.setPc_p (s : State) (v : Word) : (s.setPc v).p = s.p := rfl
@[simp] theorem State.setPc_mem (s : State) (v : Word) : (s.setPc v).mem = s.mem := rfl
@[simp] theorem State.setPc_memMap (s : State) (v : Word) : (s.setPc v).memMap = s.memMap := rfl
@[simp] theorem State.setPc_nmiPending (s : State) (v : Word) : (s.setPc v).nmiPending = s.nmiPending := rfl
@[simp] theorem State.setPc_waiting (s : State) (v : Word) : (s.setPc v).waiting = s.waiting := rfl
@[simp] theorem State.setPc_stopped (s : State) (v : Word) : (s.setPc v).stopped = s.stopped := rfl
@[simp] theorem State.setPc_irqLine (s : State) (v : Word) : (s.setPc v).irqLine = s.irqLine := rfl
@[simp] theorem State.setPc_maskEdge (s : State) (v : Word) : (s.setPc v).maskEdge = s.maskEdge := rfl
@[simp] theorem State.setPc_inputs (s : State) (v : Word) : (s.setPc v).inputs = s.inputs := rfl
@[simp] theorem State.setPc_deviceLog (s : State) (v : Word) : (s.setPc v).deviceLog = s.deviceLog := rfl
@[simp] theorem State.setPc_draws (s : State) (v : Word) : (s.setPc v).draws = s.draws := rfl

/-! ### State.setP -/
@[simp] theorem State.setP_a (s : State) (v : Flags) : (s.setP v).a = s.a := rfl
@[simp] theorem State.setP_x (s : State) (v : Flags) : (s.setP v).x = s.x := rfl
@[simp] theorem State.setP_y (s : State) (v : Flags) : (s.setP v).y = s.y := rfl
@[simp] theorem State.setP_sp (s : State) (v : Flags) : (s.setP v).sp = s.sp := rfl
@[simp] theorem State.setP_pc (s : State) (v : Flags) : (s.setP v).pc = s.pc := rfl
@[simp] theorem State.setP_p (s : State) (v : Flags) : (s.setP v).p = v := rfl
@[simp] theorem State.setP_mem (s : State) (v : Flags) : (s.setP v).mem = s.mem := rfl
@[simp] theorem State.setP_memMap (s : State) (v : Flags) : (s.setP v).memMap = s.memMap := rfl
@[simp] theorem State.setP_nmiPending (s : State) (v : Flags) : (s.setP v).nmiPending = s.nmiPending := rfl
@[simp] theorem State.setP_waiting (s : State) (v : Flags) : (s.setP v).waiting = s.waiting := rfl
@[simp] theorem State.setP_stopped (s : State) (v : Flags) : (s.setP v).stopped = s.stopped := rfl
@[simp] theorem State.setP_irqLine (s : State) (v : Flags) : (s.setP v).irqLine = s.irqLine := rfl
@[simp] theorem State.setP_maskEdge (s : State) (v : Flags) : (s.setP v).maskEdge = s.maskEdge := rfl
@[simp] theorem State.setP_inputs (s : State) (v : Flags) : (s.setP v).inputs = s.inputs := rfl
@[simp] theorem State.setP_deviceLog (s : State) (v : Flags) : (s.setP v).deviceLog = s.deviceLog := rfl
@[simp] theorem State.setP_draws (s : State) (v : Flags) : (s.setP v).draws = s.draws := rfl

/-! ### State.setMem -/
@[simp] theorem State.setMem_a (s : State) (v : Memory) : (s.setMem v).a = s.a := rfl
@[simp] theorem State.setMem_x (s : State) (v : Memory) : (s.setMem v).x = s.x := rfl
@[simp] theorem State.setMem_y (s : State) (v : Memory) : (s.setMem v).y = s.y := rfl
@[simp] theorem State.setMem_sp (s : State) (v : Memory) : (s.setMem v).sp = s.sp := rfl
@[simp] theorem State.setMem_pc (s : State) (v : Memory) : (s.setMem v).pc = s.pc := rfl
@[simp] theorem State.setMem_p (s : State) (v : Memory) : (s.setMem v).p = s.p := rfl
@[simp] theorem State.setMem_mem (s : State) (v : Memory) : (s.setMem v).mem = v := rfl
@[simp] theorem State.setMem_memMap (s : State) (v : Memory) : (s.setMem v).memMap = s.memMap := rfl
@[simp] theorem State.setMem_nmiPending (s : State) (v : Memory) : (s.setMem v).nmiPending = s.nmiPending := rfl
@[simp] theorem State.setMem_waiting (s : State) (v : Memory) : (s.setMem v).waiting = s.waiting := rfl
@[simp] theorem State.setMem_stopped (s : State) (v : Memory) : (s.setMem v).stopped = s.stopped := rfl
@[simp] theorem State.setMem_irqLine (s : State) (v : Memory) : (s.setMem v).irqLine = s.irqLine := rfl
@[simp] theorem State.setMem_maskEdge (s : State) (v : Memory) : (s.setMem v).maskEdge = s.maskEdge := rfl
@[simp] theorem State.setMem_inputs (s : State) (v : Memory) : (s.setMem v).inputs = s.inputs := rfl
@[simp] theorem State.setMem_deviceLog (s : State) (v : Memory) : (s.setMem v).deviceLog = s.deviceLog := rfl
@[simp] theorem State.setMem_draws (s : State) (v : Memory) : (s.setMem v).draws = s.draws := rfl

/-! ### State.setNmiPending -/
@[simp] theorem State.setNmiPending_a (s : State) (v : Bool) : (s.setNmiPending v).a = s.a := rfl
@[simp] theorem State.setNmiPending_x (s : State) (v : Bool) : (s.setNmiPending v).x = s.x := rfl
@[simp] theorem State.setNmiPending_y (s : State) (v : Bool) : (s.setNmiPending v).y = s.y := rfl
@[simp] theorem State.setNmiPending_sp (s : State) (v : Bool) : (s.setNmiPending v).sp = s.sp := rfl
@[simp] theorem State.setNmiPending_pc (s : State) (v : Bool) : (s.setNmiPending v).pc = s.pc := rfl
@[simp] theorem State.setNmiPending_p (s : State) (v : Bool) : (s.setNmiPending v).p = s.p := rfl
@[simp] theorem State.setNmiPending_mem (s : State) (v : Bool) : (s.setNmiPending v).mem = s.mem := rfl
@[simp] theorem State.setNmiPending_memMap (s : State) (v : Bool) : (s.setNmiPending v).memMap = s.memMap := rfl
@[simp] theorem State.setNmiPending_nmiPending (s : State) (v : Bool) : (s.setNmiPending v).nmiPending = v := rfl
@[simp] theorem State.setNmiPending_waiting (s : State) (v : Bool) : (s.setNmiPending v).waiting = s.waiting := rfl
@[simp] theorem State.setNmiPending_stopped (s : State) (v : Bool) : (s.setNmiPending v).stopped = s.stopped := rfl
@[simp] theorem State.setNmiPending_irqLine (s : State) (v : Bool) : (s.setNmiPending v).irqLine = s.irqLine := rfl
@[simp] theorem State.setNmiPending_maskEdge (s : State) (v : Bool) : (s.setNmiPending v).maskEdge = s.maskEdge := rfl
@[simp] theorem State.setNmiPending_inputs (s : State) (v : Bool) : (s.setNmiPending v).inputs = s.inputs := rfl
@[simp] theorem State.setNmiPending_deviceLog (s : State) (v : Bool) : (s.setNmiPending v).deviceLog = s.deviceLog := rfl
@[simp] theorem State.setNmiPending_draws (s : State) (v : Bool) : (s.setNmiPending v).draws = s.draws := rfl

/-! ### State.setWaiting -/
@[simp] theorem State.setWaiting_a (s : State) (v : Bool) : (s.setWaiting v).a = s.a := rfl
@[simp] theorem State.setWaiting_x (s : State) (v : Bool) : (s.setWaiting v).x = s.x := rfl
@[simp] theorem State.setWaiting_y (s : State) (v : Bool) : (s.setWaiting v).y = s.y := rfl
@[simp] theorem State.setWaiting_sp (s : State) (v : Bool) : (s.setWaiting v).sp = s.sp := rfl
@[simp] theorem State.setWaiting_pc (s : State) (v : Bool) : (s.setWaiting v).pc = s.pc := rfl
@[simp] theorem State.setWaiting_p (s : State) (v : Bool) : (s.setWaiting v).p = s.p := rfl
@[simp] theorem State.setWaiting_mem (s : State) (v : Bool) : (s.setWaiting v).mem = s.mem := rfl
@[simp] theorem State.setWaiting_memMap (s : State) (v : Bool) : (s.setWaiting v).memMap = s.memMap := rfl
@[simp] theorem State.setWaiting_nmiPending (s : State) (v : Bool) : (s.setWaiting v).nmiPending = s.nmiPending := rfl
@[simp] theorem State.setWaiting_waiting (s : State) (v : Bool) : (s.setWaiting v).waiting = v := rfl
@[simp] theorem State.setWaiting_stopped (s : State) (v : Bool) : (s.setWaiting v).stopped = s.stopped := rfl
@[simp] theorem State.setWaiting_irqLine (s : State) (v : Bool) : (s.setWaiting v).irqLine = s.irqLine := rfl
@[simp] theorem State.setWaiting_maskEdge (s : State) (v : Bool) : (s.setWaiting v).maskEdge = s.maskEdge := rfl
@[simp] theorem State.setWaiting_inputs (s : State) (v : Bool) : (s.setWaiting v).inputs = s.inputs := rfl
@[simp] theorem State.setWaiting_deviceLog (s : State) (v : Bool) : (s.setWaiting v).deviceLog = s.deviceLog := rfl
@[simp] theorem State.setWaiting_draws (s : State) (v : Bool) : (s.setWaiting v).draws = s.draws := rfl

/-! ### State.setStopped -/
@[simp] theorem State.setStopped_a (s : State) (v : Bool) : (s.setStopped v).a = s.a := rfl
@[simp] theorem State.setStopped_x (s : State) (v : Bool) : (s.setStopped v).x = s.x := rfl
@[simp] theorem State.setStopped_y (s : State) (v : Bool) : (s.setStopped v).y = s.y := rfl
@[simp] theorem State.setStopped_sp (s : State) (v : Bool) : (s.setStopped v).sp = s.sp := rfl
@[simp] theorem State.setStopped_pc (s : State) (v : Bool) : (s.setStopped v).pc = s.pc := rfl
@[simp] theorem State.setStopped_p (s : State) (v : Bool) : (s.setStopped v).p = s.p := rfl
@[simp] theorem State.setStopped_mem (s : State) (v : Bool) : (s.setStopped v).mem = s.mem := rfl
@[simp] theorem State.setStopped_memMap (s : State) (v : Bool) : (s.setStopped v).memMap = s.memMap := rfl
@[simp] theorem State.setStopped_nmiPending (s : State) (v : Bool) : (s.setStopped v).nmiPending = s.nmiPending := rfl
@[simp] theorem State.setStopped_waiting (s : State) (v : Bool) : (s.setStopped v).waiting = s.waiting := rfl
@[simp] theorem State.setStopped_stopped (s : State) (v : Bool) : (s.setStopped v).stopped = v := rfl
@[simp] theorem State.setStopped_irqLine (s : State) (v : Bool) : (s.setStopped v).irqLine = s.irqLine := rfl
@[simp] theorem State.setStopped_maskEdge (s : State) (v : Bool) : (s.setStopped v).maskEdge = s.maskEdge := rfl
@[simp] theorem State.setStopped_inputs (s : State) (v : Bool) : (s.setStopped v).inputs = s.inputs := rfl
@[simp] theorem State.setStopped_deviceLog (s : State) (v : Bool) : (s.setStopped v).deviceLog = s.deviceLog := rfl
@[simp] theorem State.setStopped_draws (s : State) (v : Bool) : (s.setStopped v).draws = s.draws := rfl

/-! ### State.setIrqLine -/
@[simp] theorem State.setIrqLine_a (s : State) (v : Bool) : (s.setIrqLine v).a = s.a := rfl
@[simp] theorem State.setIrqLine_x (s : State) (v : Bool) : (s.setIrqLine v).x = s.x := rfl
@[simp] theorem State.setIrqLine_y (s : State) (v : Bool) : (s.setIrqLine v).y = s.y := rfl
@[simp] theorem State.setIrqLine_sp (s : State) (v : Bool) : (s.setIrqLine v).sp = s.sp := rfl
@[simp] theorem State.setIrqLine_pc (s : State) (v : Bool) : (s.setIrqLine v).pc = s.pc := rfl
@[simp] theorem State.setIrqLine_p (s : State) (v : Bool) : (s.setIrqLine v).p = s.p := rfl
@[simp] theorem State.setIrqLine_mem (s : State) (v : Bool) : (s.setIrqLine v).mem = s.mem := rfl
@[simp] theorem State.setIrqLine_memMap (s : State) (v : Bool) : (s.setIrqLine v).memMap = s.memMap := rfl
@[simp] theorem State.setIrqLine_nmiPending (s : State) (v : Bool) : (s.setIrqLine v).nmiPending = s.nmiPending := rfl
@[simp] theorem State.setIrqLine_waiting (s : State) (v : Bool) : (s.setIrqLine v).waiting = s.waiting := rfl
@[simp] theorem State.setIrqLine_stopped (s : State) (v : Bool) : (s.setIrqLine v).stopped = s.stopped := rfl
@[simp] theorem State.setIrqLine_irqLine (s : State) (v : Bool) : (s.setIrqLine v).irqLine = v := rfl
@[simp] theorem State.setIrqLine_maskEdge (s : State) (v : Bool) : (s.setIrqLine v).maskEdge = s.maskEdge := rfl
@[simp] theorem State.setIrqLine_inputs (s : State) (v : Bool) : (s.setIrqLine v).inputs = s.inputs := rfl
@[simp] theorem State.setIrqLine_deviceLog (s : State) (v : Bool) : (s.setIrqLine v).deviceLog = s.deviceLog := rfl
@[simp] theorem State.setIrqLine_draws (s : State) (v : Bool) : (s.setIrqLine v).draws = s.draws := rfl

/-! ### State.setMaskEdge -/
@[simp] theorem State.setMaskEdge_a (s : State) (v : Bool) : (s.setMaskEdge v).a = s.a := rfl
@[simp] theorem State.setMaskEdge_x (s : State) (v : Bool) : (s.setMaskEdge v).x = s.x := rfl
@[simp] theorem State.setMaskEdge_y (s : State) (v : Bool) : (s.setMaskEdge v).y = s.y := rfl
@[simp] theorem State.setMaskEdge_sp (s : State) (v : Bool) : (s.setMaskEdge v).sp = s.sp := rfl
@[simp] theorem State.setMaskEdge_pc (s : State) (v : Bool) : (s.setMaskEdge v).pc = s.pc := rfl
@[simp] theorem State.setMaskEdge_p (s : State) (v : Bool) : (s.setMaskEdge v).p = s.p := rfl
@[simp] theorem State.setMaskEdge_mem (s : State) (v : Bool) : (s.setMaskEdge v).mem = s.mem := rfl
@[simp] theorem State.setMaskEdge_memMap (s : State) (v : Bool) : (s.setMaskEdge v).memMap = s.memMap := rfl
@[simp] theorem State.setMaskEdge_nmiPending (s : State) (v : Bool) : (s.setMaskEdge v).nmiPending = s.nmiPending := rfl
@[simp] theorem State.setMaskEdge_waiting (s : State) (v : Bool) : (s.setMaskEdge v).waiting = s.waiting := rfl
@[simp] theorem State.setMaskEdge_stopped (s : State) (v : Bool) : (s.setMaskEdge v).stopped = s.stopped := rfl
@[simp] theorem State.setMaskEdge_irqLine (s : State) (v : Bool) : (s.setMaskEdge v).irqLine = s.irqLine := rfl
@[simp] theorem State.setMaskEdge_maskEdge (s : State) (v : Bool) : (s.setMaskEdge v).maskEdge = v := rfl
@[simp] theorem State.setMaskEdge_inputs (s : State) (v : Bool) : (s.setMaskEdge v).inputs = s.inputs := rfl
@[simp] theorem State.setMaskEdge_deviceLog (s : State) (v : Bool) : (s.setMaskEdge v).deviceLog = s.deviceLog := rfl
@[simp] theorem State.setMaskEdge_draws (s : State) (v : Bool) : (s.setMaskEdge v).draws = s.draws := rfl

/-! ### State.setInputs -/
@[simp] theorem State.setInputs_a (s : State) (v : List Inputs) : (s.setInputs v).a = s.a := rfl
@[simp] theorem State.setInputs_x (s : State) (v : List Inputs) : (s.setInputs v).x = s.x := rfl
@[simp] theorem State.setInputs_y (s : State) (v : List Inputs) : (s.setInputs v).y = s.y := rfl
@[simp] theorem State.setInputs_sp (s : State) (v : List Inputs) : (s.setInputs v).sp = s.sp := rfl
@[simp] theorem State.setInputs_pc (s : State) (v : List Inputs) : (s.setInputs v).pc = s.pc := rfl
@[simp] theorem State.setInputs_p (s : State) (v : List Inputs) : (s.setInputs v).p = s.p := rfl
@[simp] theorem State.setInputs_mem (s : State) (v : List Inputs) : (s.setInputs v).mem = s.mem := rfl
@[simp] theorem State.setInputs_memMap (s : State) (v : List Inputs) : (s.setInputs v).memMap = s.memMap := rfl
@[simp] theorem State.setInputs_nmiPending (s : State) (v : List Inputs) : (s.setInputs v).nmiPending = s.nmiPending := rfl
@[simp] theorem State.setInputs_waiting (s : State) (v : List Inputs) : (s.setInputs v).waiting = s.waiting := rfl
@[simp] theorem State.setInputs_stopped (s : State) (v : List Inputs) : (s.setInputs v).stopped = s.stopped := rfl
@[simp] theorem State.setInputs_irqLine (s : State) (v : List Inputs) : (s.setInputs v).irqLine = s.irqLine := rfl
@[simp] theorem State.setInputs_maskEdge (s : State) (v : List Inputs) : (s.setInputs v).maskEdge = s.maskEdge := rfl
@[simp] theorem State.setInputs_inputs (s : State) (v : List Inputs) : (s.setInputs v).inputs = v := rfl
@[simp] theorem State.setInputs_deviceLog (s : State) (v : List Inputs) : (s.setInputs v).deviceLog = s.deviceLog := rfl
@[simp] theorem State.setInputs_draws (s : State) (v : List Inputs) : (s.setInputs v).draws = s.draws := rfl

/-! ### State.setDeviceLog -/
@[simp] theorem State.setDeviceLog_a (s : State) (v : List DeviceAccess) : (s.setDeviceLog v).a = s.a := rfl
@[simp] theorem State.setDeviceLog_x (s : State) (v : List DeviceAccess) : (s.setDeviceLog v).x = s.x := rfl
@[simp] theorem State.setDeviceLog_y (s : State) (v : List DeviceAccess) : (s.setDeviceLog v).y = s.y := rfl
@[simp] theorem State.setDeviceLog_sp (s : State) (v : List DeviceAccess) : (s.setDeviceLog v).sp = s.sp := rfl
@[simp] theorem State.setDeviceLog_pc (s : State) (v : List DeviceAccess) : (s.setDeviceLog v).pc = s.pc := rfl
@[simp] theorem State.setDeviceLog_p (s : State) (v : List DeviceAccess) : (s.setDeviceLog v).p = s.p := rfl
@[simp] theorem State.setDeviceLog_mem (s : State) (v : List DeviceAccess) : (s.setDeviceLog v).mem = s.mem := rfl
@[simp] theorem State.setDeviceLog_memMap (s : State) (v : List DeviceAccess) : (s.setDeviceLog v).memMap = s.memMap := rfl
@[simp] theorem State.setDeviceLog_nmiPending (s : State) (v : List DeviceAccess) : (s.setDeviceLog v).nmiPending = s.nmiPending := rfl
@[simp] theorem State.setDeviceLog_waiting (s : State) (v : List DeviceAccess) : (s.setDeviceLog v).waiting = s.waiting := rfl
@[simp] theorem State.setDeviceLog_stopped (s : State) (v : List DeviceAccess) : (s.setDeviceLog v).stopped = s.stopped := rfl
@[simp] theorem State.setDeviceLog_irqLine (s : State) (v : List DeviceAccess) : (s.setDeviceLog v).irqLine = s.irqLine := rfl
@[simp] theorem State.setDeviceLog_maskEdge (s : State) (v : List DeviceAccess) : (s.setDeviceLog v).maskEdge = s.maskEdge := rfl
@[simp] theorem State.setDeviceLog_inputs (s : State) (v : List DeviceAccess) : (s.setDeviceLog v).inputs = s.inputs := rfl
@[simp] theorem State.setDeviceLog_deviceLog (s : State) (v : List DeviceAccess) : (s.setDeviceLog v).deviceLog = v := rfl
@[simp] theorem State.setDeviceLog_draws (s : State) (v : List DeviceAccess) : (s.setDeviceLog v).draws = s.draws := rfl

/-! ### State.setDraws -/
@[simp] theorem State.setDraws_a (s : State) (v : Nat) : (s.setDraws v).a = s.a := rfl
@[simp] theorem State.setDraws_x (s : State) (v : Nat) : (s.setDraws v).x = s.x := rfl
@[simp] theorem State.setDraws_y (s : State) (v : Nat) : (s.setDraws v).y = s.y := rfl
@[simp] theorem State.setDraws_sp (s : State) (v : Nat) : (s.setDraws v).sp = s.sp := rfl
@[simp] theorem State.setDraws_pc (s : State) (v : Nat) : (s.setDraws v).pc = s.pc := rfl
@[simp] theorem State.setDraws_p (s : State) (v : Nat) : (s.setDraws v).p = s.p := rfl
@[simp] theorem State.setDraws_mem (s : State) (v : Nat) : (s.setDraws v).mem = s.mem := rfl
@[simp] theorem State.setDraws_memMap (s : State) (v : Nat) : (s.setDraws v).memMap = s.memMap := rfl
@[simp] theorem State.setDraws_nmiPending (s : State) (v : Nat) : (s.setDraws v).nmiPending = s.nmiPending := rfl
@[simp] theorem State.setDraws_waiting (s : State) (v : Nat) : (s.setDraws v).waiting = s.waiting := rfl
@[simp] theorem State.setDraws_stopped (s : State) (v : Nat) : (s.setDraws v).stopped = s.stopped := rfl
@[simp] theorem State.setDraws_irqLine (s : State) (v : Nat) : (s.setDraws v).irqLine = s.irqLine := rfl
@[simp] theorem State.setDraws_maskEdge (s : State) (v : Nat) : (s.setDraws v).maskEdge = s.maskEdge := rfl
@[simp] theorem State.setDraws_inputs (s : State) (v : Nat) : (s.setDraws v).inputs = s.inputs := rfl
@[simp] theorem State.setDraws_deviceLog (s : State) (v : Nat) : (s.setDraws v).deviceLog = s.deviceLog := rfl
@[simp] theorem State.setDraws_draws (s : State) (v : Nat) : (s.setDraws v).draws = v := rfl

end Sys2Proof.Machine
end

