-- ==== Sys2Proof/Laws/Ops.lean ====
section
/-! SUPPORT. What the shared operations can do, said once: a read changes nothing but the count of free values and the list of
device accesses; a write changes at most one byte of RAM; what a push, a pull, an exception entry, a return, a
read-modify-write and a boundary check leave. -/

namespace Sys2Proof.Machine

/-! ## Reads -/

theorem State.SameButReads.refl (s : State) : s.SameButReads s := rfl

theorem State.SameButReads.trans {s t u : State} (h : s.SameButReads t) (k : t.SameButReads u) : s.SameButReads u := by
  unfold State.SameButReads at *
  rw [k, h]

theorem State.SameButReads.a_eq {s t : State} (h : s.SameButReads t) : t.a = s.a := by rw [h]
theorem State.SameButReads.x_eq {s t : State} (h : s.SameButReads t) : t.x = s.x := by rw [h]
theorem State.SameButReads.y_eq {s t : State} (h : s.SameButReads t) : t.y = s.y := by rw [h]
theorem State.SameButReads.sp_eq {s t : State} (h : s.SameButReads t) : t.sp = s.sp := by rw [h]
theorem State.SameButReads.pc_eq {s t : State} (h : s.SameButReads t) : t.pc = s.pc := by rw [h]
theorem State.SameButReads.p_eq {s t : State} (h : s.SameButReads t) : t.p = s.p := by rw [h]
theorem State.SameButReads.mem_eq {s t : State} (h : s.SameButReads t) : t.mem = s.mem := by rw [h]
theorem State.SameButReads.memMap_eq {s t : State} (h : s.SameButReads t) : t.memMap = s.memMap := by rw [h]
theorem State.SameButReads.nmiPending_eq {s t : State} (h : s.SameButReads t) : t.nmiPending = s.nmiPending := by rw [h]
theorem State.SameButReads.waiting_eq {s t : State} (h : s.SameButReads t) : t.waiting = s.waiting := by rw [h]
theorem State.SameButReads.stopped_eq {s t : State} (h : s.SameButReads t) : t.stopped = s.stopped := by rw [h]
theorem State.SameButReads.irqLine_eq {s t : State} (h : s.SameButReads t) : t.irqLine = s.irqLine := by rw [h]
theorem State.SameButReads.maskEdge_eq {s t : State} (h : s.SameButReads t) : t.maskEdge = s.maskEdge := by rw [h]
theorem State.SameButReads.inputs_eq {s t : State} (h : s.SameButReads t) : t.inputs = s.inputs := by rw [h]

/-- The bytes of memory are as before. -/
theorem State.SameButReads.byteAt_eq {s t : State} (h : s.SameButReads t) (b : Word) : t.byteAt b = s.byteAt b := by
  simp [State.byteAt, h.mem_eq]

theorem draw_same (s : State) : s.SameButReads (draw s).2 := rfl

theorem drawBit_same (s : State) : s.SameButReads (drawBit s).2 := rfl

/-- A draw uses one number of the free values. -/
@[simp] theorem draw_draws (s : State) : (draw s).2.draws = s.draws + 1 := rfl

@[simp] theorem draw_deviceLog (s : State) : (draw s).2.deviceLog = s.deviceLog := rfl

/-- A read, case by case of the region (R33). -/
theorem busRead_cases (a : Word) (s : State) :
    (s.isPlain a ∧ busRead a s = (s.byteAt a, s)) ∨
    (s.memMap.regionAt a.toNat = .device ∧
      busRead a s = (Config.freeByte s.draws,
        (s.setDraws (s.draws + 1)).setDeviceLog (.read a (Config.freeByte s.draws) :: s.deviceLog))) ∨
    (s.memMap.regionAt a.toNat = .unmapped ∧
      busRead a s = (Config.freeByte s.draws, s.setDraws (s.draws + 1))) := by
  cases h : s.memMap.regionAt a.toNat <;>
    simp [busRead, State.isPlain, plainAt, h, draw, State.byteAt]

/-- A read of RAM or ROM gives the byte memory holds and changes nothing. -/
theorem busRead_plain {a : Word} {s : State} (h : s.isPlain a) : busRead a s = (s.byteAt a, s) := by
  rcases busRead_cases a s with ⟨-, e⟩ | ⟨k, -⟩ | ⟨k, -⟩
  · exact e
  · simp [State.isPlain, plainAt, k] at h
  · simp [State.isPlain, plainAt, k] at h

theorem State.isPlain_of_isRam {s : State} {a : Word} (h : s.isRam a) : s.isPlain a := by
  simp [State.isPlain, plainAt, show s.memMap.regionAt a.toNat = .ram from h]

theorem busRead_same (a : Word) (s : State) : s.SameButReads (busRead a s).2 := by
  rcases busRead_cases a s with ⟨-, e⟩ | ⟨-, e⟩ | ⟨-, e⟩ <;> rw [e] <;> rfl

theorem read16_same (a : Word) (s : State) : s.SameButReads (read16 a s).2 :=
  (busRead_same a s).trans (busRead_same (a + 1) _)

theorem read16zp_same (z : Byte) (s : State) : s.SameButReads (read16zp z s).2 :=
  (busRead_same _ s).trans (busRead_same _ _)

theorem effAddr_same (m : MemArg) (s : State) : s.SameButReads (effAddr m s).2 := by
  cases m <;> first | exact .refl s | exact read16zp_same _ s

theorem readOperand_same (o : ReadArg) (s : State) : s.SameButReads (readOperand o s).2 := by
  cases o with
  | imm v => exact .refl s
  | mem m => exact (effAddr_same m s).trans (busRead_same _ _)

/-- `Read16` of plain memory: the two bytes, low first. -/
theorem read16_plain {a : Word} {s : State} (lo : s.isPlain a) (hi : s.isPlain (a + 1)) :
    read16 a s = (word (s.byteAt (a + 1)) (s.byteAt a), s) := by
  unfold read16; dsimp only; rw [busRead_plain lo]; dsimp only; rw [busRead_plain hi]

/-- `Read16zp` of plain memory. -/
theorem read16zp_plain {z : Byte} {s : State} (lo : s.isPlain (zext16 z)) (hi : s.isPlain (zext16 (z + 1))) :
    read16zp z s = (word (s.byteAt (zext16 (z + 1))) (s.byteAt (zext16 z)), s) := by
  unfold read16zp; dsimp only; rw [busRead_plain lo]; dsimp only; rw [busRead_plain hi]

@[simp] theorem draw_a (s : State) : (draw s).2.a = s.a := (draw_same s).a_eq
@[simp] theorem draw_x (s : State) : (draw s).2.x = s.x := (draw_same s).x_eq
@[simp] theorem draw_y (s : State) : (draw s).2.y = s.y := (draw_same s).y_eq
@[simp] theorem draw_sp (s : State) : (draw s).2.sp = s.sp := (draw_same s).sp_eq
@[simp] theorem draw_pc (s : State) : (draw s).2.pc = s.pc := (draw_same s).pc_eq
@[simp] theorem draw_p (s : State) : (draw s).2.p = s.p := (draw_same s).p_eq
@[simp] theorem draw_mem (s : State) : (draw s).2.mem = s.mem := (draw_same s).mem_eq
@[simp] theorem draw_memMap (s : State) : (draw s).2.memMap = s.memMap := (draw_same s).memMap_eq
@[simp] theorem draw_nmiPending (s : State) : (draw s).2.nmiPending = s.nmiPending := (draw_same s).nmiPending_eq
@[simp] theorem draw_waiting (s : State) : (draw s).2.waiting = s.waiting := (draw_same s).waiting_eq
@[simp] theorem draw_stopped (s : State) : (draw s).2.stopped = s.stopped := (draw_same s).stopped_eq
@[simp] theorem draw_irqLine (s : State) : (draw s).2.irqLine = s.irqLine := (draw_same s).irqLine_eq
@[simp] theorem draw_maskEdge (s : State) : (draw s).2.maskEdge = s.maskEdge := (draw_same s).maskEdge_eq
@[simp] theorem draw_inputs (s : State) : (draw s).2.inputs = s.inputs := (draw_same s).inputs_eq

@[simp] theorem drawBit_a (s : State) : (drawBit s).2.a = s.a := (drawBit_same s).a_eq
@[simp] theorem drawBit_x (s : State) : (drawBit s).2.x = s.x := (drawBit_same s).x_eq
@[simp] theorem drawBit_y (s : State) : (drawBit s).2.y = s.y := (drawBit_same s).y_eq
@[simp] theorem drawBit_sp (s : State) : (drawBit s).2.sp = s.sp := (drawBit_same s).sp_eq
@[simp] theorem drawBit_pc (s : State) : (drawBit s).2.pc = s.pc := (drawBit_same s).pc_eq
@[simp] theorem drawBit_p (s : State) : (drawBit s).2.p = s.p := (drawBit_same s).p_eq
@[simp] theorem drawBit_mem (s : State) : (drawBit s).2.mem = s.mem := (drawBit_same s).mem_eq
@[simp] theorem drawBit_memMap (s : State) : (drawBit s).2.memMap = s.memMap := (drawBit_same s).memMap_eq
@[simp] theorem drawBit_nmiPending (s : State) : (drawBit s).2.nmiPending = s.nmiPending := (drawBit_same s).nmiPending_eq
@[simp] theorem drawBit_waiting (s : State) : (drawBit s).2.waiting = s.waiting := (drawBit_same s).waiting_eq
@[simp] theorem drawBit_stopped (s : State) : (drawBit s).2.stopped = s.stopped := (drawBit_same s).stopped_eq
@[simp] theorem drawBit_irqLine (s : State) : (drawBit s).2.irqLine = s.irqLine := (drawBit_same s).irqLine_eq
@[simp] theorem drawBit_maskEdge (s : State) : (drawBit s).2.maskEdge = s.maskEdge := (drawBit_same s).maskEdge_eq
@[simp] theorem drawBit_inputs (s : State) : (drawBit s).2.inputs = s.inputs := (drawBit_same s).inputs_eq

@[simp] theorem busRead_a (a : Word) (s : State) : (busRead a s).2.a = s.a := (busRead_same a s).a_eq
@[simp] theorem busRead_x (a : Word) (s : State) : (busRead a s).2.x = s.x := (busRead_same a s).x_eq
@[simp] theorem busRead_y (a : Word) (s : State) : (busRead a s).2.y = s.y := (busRead_same a s).y_eq
@[simp] theorem busRead_sp (a : Word) (s : State) : (busRead a s).2.sp = s.sp := (busRead_same a s).sp_eq
@[simp] theorem busRead_pc (a : Word) (s : State) : (busRead a s).2.pc = s.pc := (busRead_same a s).pc_eq
@[simp] theorem busRead_p (a : Word) (s : State) : (busRead a s).2.p = s.p := (busRead_same a s).p_eq
@[simp] theorem busRead_mem (a : Word) (s : State) : (busRead a s).2.mem = s.mem := (busRead_same a s).mem_eq
@[simp] theorem busRead_memMap (a : Word) (s : State) : (busRead a s).2.memMap = s.memMap := (busRead_same a s).memMap_eq
@[simp] theorem busRead_nmiPending (a : Word) (s : State) : (busRead a s).2.nmiPending = s.nmiPending := (busRead_same a s).nmiPending_eq
@[simp] theorem busRead_waiting (a : Word) (s : State) : (busRead a s).2.waiting = s.waiting := (busRead_same a s).waiting_eq
@[simp] theorem busRead_stopped (a : Word) (s : State) : (busRead a s).2.stopped = s.stopped := (busRead_same a s).stopped_eq
@[simp] theorem busRead_irqLine (a : Word) (s : State) : (busRead a s).2.irqLine = s.irqLine := (busRead_same a s).irqLine_eq
@[simp] theorem busRead_maskEdge (a : Word) (s : State) : (busRead a s).2.maskEdge = s.maskEdge := (busRead_same a s).maskEdge_eq
@[simp] theorem busRead_inputs (a : Word) (s : State) : (busRead a s).2.inputs = s.inputs := (busRead_same a s).inputs_eq

@[simp] theorem read16_a (a : Word) (s : State) : (read16 a s).2.a = s.a := (read16_same a s).a_eq
@[simp] theorem read16_x (a : Word) (s : State) : (read16 a s).2.x = s.x := (read16_same a s).x_eq
@[simp] theorem read16_y (a : Word) (s : State) : (read16 a s).2.y = s.y := (read16_same a s).y_eq
@[simp] theorem read16_sp (a : Word) (s : State) : (read16 a s).2.sp = s.sp := (read16_same a s).sp_eq
@[simp] theorem read16_pc (a : Word) (s : State) : (read16 a s).2.pc = s.pc := (read16_same a s).pc_eq
@[simp] theorem read16_p (a : Word) (s : State) : (read16 a s).2.p = s.p := (read16_same a s).p_eq
@[simp] theorem read16_mem (a : Word) (s : State) : (read16 a s).2.mem = s.mem := (read16_same a s).mem_eq
@[simp] theorem read16_memMap (a : Word) (s : State) : (read16 a s).2.memMap = s.memMap := (read16_same a s).memMap_eq
@[simp] theorem read16_nmiPending (a : Word) (s : State) : (read16 a s).2.nmiPending = s.nmiPending := (read16_same a s).nmiPending_eq
@[simp] theorem read16_waiting (a : Word) (s : State) : (read16 a s).2.waiting = s.waiting := (read16_same a s).waiting_eq
@[simp] theorem read16_stopped (a : Word) (s : State) : (read16 a s).2.stopped = s.stopped := (read16_same a s).stopped_eq
@[simp] theorem read16_irqLine (a : Word) (s : State) : (read16 a s).2.irqLine = s.irqLine := (read16_same a s).irqLine_eq
@[simp] theorem read16_maskEdge (a : Word) (s : State) : (read16 a s).2.maskEdge = s.maskEdge := (read16_same a s).maskEdge_eq
@[simp] theorem read16_inputs (a : Word) (s : State) : (read16 a s).2.inputs = s.inputs := (read16_same a s).inputs_eq

@[simp] theorem read16zp_a (z : Byte) (s : State) : (read16zp z s).2.a = s.a := (read16zp_same z s).a_eq
@[simp] theorem read16zp_x (z : Byte) (s : State) : (read16zp z s).2.x = s.x := (read16zp_same z s).x_eq
@[simp] theorem read16zp_y (z : Byte) (s : State) : (read16zp z s).2.y = s.y := (read16zp_same z s).y_eq
@[simp] theorem read16zp_sp (z : Byte) (s : State) : (read16zp z s).2.sp = s.sp := (read16zp_same z s).sp_eq
@[simp] theorem read16zp_pc (z : Byte) (s : State) : (read16zp z s).2.pc = s.pc := (read16zp_same z s).pc_eq
@[simp] theorem read16zp_p (z : Byte) (s : State) : (read16zp z s).2.p = s.p := (read16zp_same z s).p_eq
@[simp] theorem read16zp_mem (z : Byte) (s : State) : (read16zp z s).2.mem = s.mem := (read16zp_same z s).mem_eq
@[simp] theorem read16zp_memMap (z : Byte) (s : State) : (read16zp z s).2.memMap = s.memMap := (read16zp_same z s).memMap_eq
@[simp] theorem read16zp_nmiPending (z : Byte) (s : State) : (read16zp z s).2.nmiPending = s.nmiPending := (read16zp_same z s).nmiPending_eq
@[simp] theorem read16zp_waiting (z : Byte) (s : State) : (read16zp z s).2.waiting = s.waiting := (read16zp_same z s).waiting_eq
@[simp] theorem read16zp_stopped (z : Byte) (s : State) : (read16zp z s).2.stopped = s.stopped := (read16zp_same z s).stopped_eq
@[simp] theorem read16zp_irqLine (z : Byte) (s : State) : (read16zp z s).2.irqLine = s.irqLine := (read16zp_same z s).irqLine_eq
@[simp] theorem read16zp_maskEdge (z : Byte) (s : State) : (read16zp z s).2.maskEdge = s.maskEdge := (read16zp_same z s).maskEdge_eq
@[simp] theorem read16zp_inputs (z : Byte) (s : State) : (read16zp z s).2.inputs = s.inputs := (read16zp_same z s).inputs_eq

@[simp] theorem effAddr_a (m : MemArg) (s : State) : (effAddr m s).2.a = s.a := (effAddr_same m s).a_eq
@[simp] theorem effAddr_x (m : MemArg) (s : State) : (effAddr m s).2.x = s.x := (effAddr_same m s).x_eq
@[simp] theorem effAddr_y (m : MemArg) (s : State) : (effAddr m s).2.y = s.y := (effAddr_same m s).y_eq
@[simp] theorem effAddr_sp (m : MemArg) (s : State) : (effAddr m s).2.sp = s.sp := (effAddr_same m s).sp_eq
@[simp] theorem effAddr_pc (m : MemArg) (s : State) : (effAddr m s).2.pc = s.pc := (effAddr_same m s).pc_eq
@[simp] theorem effAddr_p (m : MemArg) (s : State) : (effAddr m s).2.p = s.p := (effAddr_same m s).p_eq
@[simp] theorem effAddr_mem (m : MemArg) (s : State) : (effAddr m s).2.mem = s.mem := (effAddr_same m s).mem_eq
@[simp] theorem effAddr_memMap (m : MemArg) (s : State) : (effAddr m s).2.memMap = s.memMap := (effAddr_same m s).memMap_eq
@[simp] theorem effAddr_nmiPending (m : MemArg) (s : State) : (effAddr m s).2.nmiPending = s.nmiPending := (effAddr_same m s).nmiPending_eq
@[simp] theorem effAddr_waiting (m : MemArg) (s : State) : (effAddr m s).2.waiting = s.waiting := (effAddr_same m s).waiting_eq
@[simp] theorem effAddr_stopped (m : MemArg) (s : State) : (effAddr m s).2.stopped = s.stopped := (effAddr_same m s).stopped_eq
@[simp] theorem effAddr_irqLine (m : MemArg) (s : State) : (effAddr m s).2.irqLine = s.irqLine := (effAddr_same m s).irqLine_eq
@[simp] theorem effAddr_maskEdge (m : MemArg) (s : State) : (effAddr m s).2.maskEdge = s.maskEdge := (effAddr_same m s).maskEdge_eq
@[simp] theorem effAddr_inputs (m : MemArg) (s : State) : (effAddr m s).2.inputs = s.inputs := (effAddr_same m s).inputs_eq

@[simp] theorem readOperand_a (o : ReadArg) (s : State) : (readOperand o s).2.a = s.a := (readOperand_same o s).a_eq
@[simp] theorem readOperand_x (o : ReadArg) (s : State) : (readOperand o s).2.x = s.x := (readOperand_same o s).x_eq
@[simp] theorem readOperand_y (o : ReadArg) (s : State) : (readOperand o s).2.y = s.y := (readOperand_same o s).y_eq
@[simp] theorem readOperand_sp (o : ReadArg) (s : State) : (readOperand o s).2.sp = s.sp := (readOperand_same o s).sp_eq
@[simp] theorem readOperand_pc (o : ReadArg) (s : State) : (readOperand o s).2.pc = s.pc := (readOperand_same o s).pc_eq
@[simp] theorem readOperand_p (o : ReadArg) (s : State) : (readOperand o s).2.p = s.p := (readOperand_same o s).p_eq
@[simp] theorem readOperand_mem (o : ReadArg) (s : State) : (readOperand o s).2.mem = s.mem := (readOperand_same o s).mem_eq
@[simp] theorem readOperand_memMap (o : ReadArg) (s : State) : (readOperand o s).2.memMap = s.memMap := (readOperand_same o s).memMap_eq
@[simp] theorem readOperand_nmiPending (o : ReadArg) (s : State) : (readOperand o s).2.nmiPending = s.nmiPending := (readOperand_same o s).nmiPending_eq
@[simp] theorem readOperand_waiting (o : ReadArg) (s : State) : (readOperand o s).2.waiting = s.waiting := (readOperand_same o s).waiting_eq
@[simp] theorem readOperand_stopped (o : ReadArg) (s : State) : (readOperand o s).2.stopped = s.stopped := (readOperand_same o s).stopped_eq
@[simp] theorem readOperand_irqLine (o : ReadArg) (s : State) : (readOperand o s).2.irqLine = s.irqLine := (readOperand_same o s).irqLine_eq
@[simp] theorem readOperand_maskEdge (o : ReadArg) (s : State) : (readOperand o s).2.maskEdge = s.maskEdge := (readOperand_same o s).maskEdge_eq
@[simp] theorem readOperand_inputs (o : ReadArg) (s : State) : (readOperand o s).2.inputs = s.inputs := (readOperand_same o s).inputs_eq

/-! ## Writes -/

/-- A write, case by case of the region (R33). -/
theorem busWrite_cases (a : Word) (v : Byte) (s : State) :
    (s.isRam a ∧ busWrite a v s = s.setMem (s.mem.write a.toNat v)) ∨
    (s.memMap.regionAt a.toNat = .device ∧ busWrite a v s = s.setDeviceLog (.write a v :: s.deviceLog)) ∨
    ((s.memMap.regionAt a.toNat = .rom ∨ s.memMap.regionAt a.toNat = .unmapped) ∧ busWrite a v s = s) := by
  cases h : s.memMap.regionAt a.toNat <;> simp [busWrite, State.isRam, h]

theorem busWrite_ram {a : Word} {s : State} (v : Byte) (h : s.isRam a) :
    busWrite a v s = s.setMem (s.mem.write a.toNat v) := by
  rcases busWrite_cases a v s with ⟨-, e⟩ | ⟨k, -⟩ | ⟨k, -⟩
  · exact e
  · rw [State.isRam, k] at h; cases h
  · rw [State.isRam] at h; rcases k with k | k <;> rw [k] at h <;> cases h

@[simp] theorem busWrite_a (a : Word) (v : Byte) (s : State) : (busWrite a v s).a = s.a := by
  rcases busWrite_cases a v s with ⟨-, e⟩ | ⟨-, e⟩ | ⟨-, e⟩ <;> rw [e] <;> rfl
@[simp] theorem busWrite_x (a : Word) (v : Byte) (s : State) : (busWrite a v s).x = s.x := by
  rcases busWrite_cases a v s with ⟨-, e⟩ | ⟨-, e⟩ | ⟨-, e⟩ <;> rw [e] <;> rfl
@[simp] theorem busWrite_y (a : Word) (v : Byte) (s : State) : (busWrite a v s).y = s.y := by
  rcases busWrite_cases a v s with ⟨-, e⟩ | ⟨-, e⟩ | ⟨-, e⟩ <;> rw [e] <;> rfl
@[simp] theorem busWrite_sp (a : Word) (v : Byte) (s : State) : (busWrite a v s).sp = s.sp := by
  rcases busWrite_cases a v s with ⟨-, e⟩ | ⟨-, e⟩ | ⟨-, e⟩ <;> rw [e] <;> rfl
@[simp] theorem busWrite_pc (a : Word) (v : Byte) (s : State) : (busWrite a v s).pc = s.pc := by
  rcases busWrite_cases a v s with ⟨-, e⟩ | ⟨-, e⟩ | ⟨-, e⟩ <;> rw [e] <;> rfl
@[simp] theorem busWrite_p (a : Word) (v : Byte) (s : State) : (busWrite a v s).p = s.p := by
  rcases busWrite_cases a v s with ⟨-, e⟩ | ⟨-, e⟩ | ⟨-, e⟩ <;> rw [e] <;> rfl
@[simp] theorem busWrite_memMap (a : Word) (v : Byte) (s : State) : (busWrite a v s).memMap = s.memMap := by
  rcases busWrite_cases a v s with ⟨-, e⟩ | ⟨-, e⟩ | ⟨-, e⟩ <;> rw [e] <;> rfl
@[simp] theorem busWrite_nmiPending (a : Word) (v : Byte) (s : State) : (busWrite a v s).nmiPending = s.nmiPending := by
  rcases busWrite_cases a v s with ⟨-, e⟩ | ⟨-, e⟩ | ⟨-, e⟩ <;> rw [e] <;> rfl
@[simp] theorem busWrite_waiting (a : Word) (v : Byte) (s : State) : (busWrite a v s).waiting = s.waiting := by
  rcases busWrite_cases a v s with ⟨-, e⟩ | ⟨-, e⟩ | ⟨-, e⟩ <;> rw [e] <;> rfl
@[simp] theorem busWrite_stopped (a : Word) (v : Byte) (s : State) : (busWrite a v s).stopped = s.stopped := by
  rcases busWrite_cases a v s with ⟨-, e⟩ | ⟨-, e⟩ | ⟨-, e⟩ <;> rw [e] <;> rfl
@[simp] theorem busWrite_irqLine (a : Word) (v : Byte) (s : State) : (busWrite a v s).irqLine = s.irqLine := by
  rcases busWrite_cases a v s with ⟨-, e⟩ | ⟨-, e⟩ | ⟨-, e⟩ <;> rw [e] <;> rfl
@[simp] theorem busWrite_maskEdge (a : Word) (v : Byte) (s : State) : (busWrite a v s).maskEdge = s.maskEdge := by
  rcases busWrite_cases a v s with ⟨-, e⟩ | ⟨-, e⟩ | ⟨-, e⟩ <;> rw [e] <;> rfl
@[simp] theorem busWrite_inputs (a : Word) (v : Byte) (s : State) : (busWrite a v s).inputs = s.inputs := by
  rcases busWrite_cases a v s with ⟨-, e⟩ | ⟨-, e⟩ | ⟨-, e⟩ <;> rw [e] <;> rfl
@[simp] theorem busWrite_draws (a : Word) (v : Byte) (s : State) : (busWrite a v s).draws = s.draws := by
  rcases busWrite_cases a v s with ⟨-, e⟩ | ⟨-, e⟩ | ⟨-, e⟩ <;> rw [e] <;> rfl

/-- What memory holds after a write: the byte at the address if it is RAM, every other byte as before. -/
theorem busWrite_byteAt (a b : Word) (v : Byte) (s : State) :
    (busWrite a v s).byteAt b = if b = a ∧ s.memMap.regionAt a.toNat = .ram then v else s.byteAt b := by
  rcases busWrite_cases a v s with ⟨k, e⟩ | ⟨k, e⟩ | ⟨k, e⟩
  · rw [e]
    have k : s.memMap.regionAt a.toNat = .ram := k
    simp only [State.byteAt, State.setMem_mem, Memory.read_write, k, and_true]
    congr 1
    exact propext ⟨fun h => BitVec.eq_of_toNat_eq h, fun h => h ▸ rfl⟩
  · rw [e]; simp [k, State.byteAt]
  · rw [e]; rcases k with k | k <;> simp [k]

theorem busWrite_byteAt_other {a b : Word} (v : Byte) (s : State) (h : b ≠ a) : (busWrite a v s).byteAt b = s.byteAt b := by
  simp [busWrite_byteAt, h]

theorem busWrite_byteAt_same {a : Word} {s : State} (v : Byte) (h : s.isRam a) : (busWrite a v s).byteAt a = v := by
  simp [busWrite_byteAt, show s.memMap.regionAt a.toNat = .ram from h]

/-- A write keeps the canonical form of memory. -/
theorem busWrite_wf (a : Word) (v : Byte) (s : State) (h : s.mem.wf) : (busWrite a v s).mem.wf := by
  rcases busWrite_cases a v s with ⟨-, e⟩ | ⟨-, e⟩ | ⟨-, e⟩ <;> rw [e]
  · exact Memory.write_wf v a.isLt h
  · exact h
  · exact h

/-- A write makes one device access at a device, and none elsewhere. -/
theorem busWrite_deviceLog (a : Word) (v : Byte) (s : State) : (busWrite a v s).deviceLog = s.handed a v ++ s.deviceLog := by
  cases h : s.memMap.regionAt a.toNat <;> simp [busWrite, State.handed, h]

/-- What a byte handed over adds to the accesses depends on the map alone. -/
theorem State.handed_congr {s t : State} (h : t.memMap = s.memMap) (a : Word) (v : Byte) : t.handed a v = s.handed a v := by
  simp [State.handed, h]

/-- A write never moves what memory holds at an address that is not RAM. -/
theorem busWrite_byteAt_notRam {a b : Word} (v : Byte) (s : State) (h : s.memMap.regionAt b.toNat ≠ .ram) :
    (busWrite a v s).byteAt b = s.byteAt b := by
  rw [busWrite_byteAt]
  split
  · next k => rw [← k.1] at k; exact absurd k.2 h
  · rfl

/-- A write is what `ChangesByte` says. -/
theorem busWrite_changesByte (a : Word) (v : Byte) (s : State) : ChangesByte s (busWrite a v s) a v where
  frame := by rcases busWrite_cases a v s with ⟨-, e⟩ | ⟨-, e⟩ | ⟨-, e⟩ <;> rw [e] <;> rfl
  written := busWrite_byteAt_same v
  others := fun b h => by
    rcases h with h | h
    · exact busWrite_byteAt_other v s h
    · rw [busWrite_byteAt, if_neg (fun k => h k.2)]
  accesses := busWrite_deviceLog a v s

/-! ## The stack -/

@[simp] theorem push8_a (v : Byte) (s : State) : (push8 v s).a = s.a := by simp [push8]
@[simp] theorem push8_x (v : Byte) (s : State) : (push8 v s).x = s.x := by simp [push8]
@[simp] theorem push8_y (v : Byte) (s : State) : (push8 v s).y = s.y := by simp [push8]
@[simp] theorem push8_sp (v : Byte) (s : State) : (push8 v s).sp = s.sp - 1 := by simp [push8]
@[simp] theorem push8_pc (v : Byte) (s : State) : (push8 v s).pc = s.pc := by simp [push8]
@[simp] theorem push8_p (v : Byte) (s : State) : (push8 v s).p = s.p := by simp [push8]
@[simp] theorem push8_memMap (v : Byte) (s : State) : (push8 v s).memMap = s.memMap := by simp [push8]
@[simp] theorem push8_nmiPending (v : Byte) (s : State) : (push8 v s).nmiPending = s.nmiPending := by simp [push8]
@[simp] theorem push8_waiting (v : Byte) (s : State) : (push8 v s).waiting = s.waiting := by simp [push8]
@[simp] theorem push8_stopped (v : Byte) (s : State) : (push8 v s).stopped = s.stopped := by simp [push8]
@[simp] theorem push8_irqLine (v : Byte) (s : State) : (push8 v s).irqLine = s.irqLine := by simp [push8]
@[simp] theorem push8_maskEdge (v : Byte) (s : State) : (push8 v s).maskEdge = s.maskEdge := by simp [push8]
@[simp] theorem push8_inputs (v : Byte) (s : State) : (push8 v s).inputs = s.inputs := by simp [push8]
@[simp] theorem push8_draws (v : Byte) (s : State) : (push8 v s).draws = s.draws := by simp [push8]

/-- What memory holds after a push. -/
theorem push8_byteAt (b : Word) (v : Byte) (s : State) :
    (push8 v s).byteAt b =
      if b = stackAddr s.sp ∧ s.memMap.regionAt (stackAddr s.sp).toNat = .ram then v else s.byteAt b :=
  busWrite_byteAt (stackAddr s.sp) b v s

/-- The device access a push makes. -/
theorem push8_deviceLog (v : Byte) (s : State) : (push8 v s).deviceLog = s.handed (stackAddr s.sp) v ++ s.deviceLog :=
  busWrite_deviceLog (stackAddr s.sp) v s

theorem push8_wf (v : Byte) (s : State) (h : s.mem.wf) : (push8 v s).mem.wf := busWrite_wf _ v s h

/-- A pull moves S up by one, and otherwise does what a read does. -/
theorem pull8_same (s : State) : (s.setSp (s.sp + 1)).SameButReads (pull8 s).2 := busRead_same _ _

/-- A pull from plain memory gives the byte above S. -/
theorem pull8_plain {s : State} (h : s.isPlain (stackAddr (s.sp + 1))) :
    pull8 s = (s.byteAt (stackAddr (s.sp + 1)), s.setSp (s.sp + 1)) :=
  busRead_plain (s := s.setSp (s.sp + 1)) h

@[simp] theorem pull8_a (s : State) : (pull8 s).2.a = s.a := (pull8_same s).a_eq
@[simp] theorem pull8_x (s : State) : (pull8 s).2.x = s.x := (pull8_same s).x_eq
@[simp] theorem pull8_y (s : State) : (pull8 s).2.y = s.y := (pull8_same s).y_eq
@[simp] theorem pull8_sp (s : State) : (pull8 s).2.sp = s.sp + 1 := (pull8_same s).sp_eq
@[simp] theorem pull8_pc (s : State) : (pull8 s).2.pc = s.pc := (pull8_same s).pc_eq
@[simp] theorem pull8_p (s : State) : (pull8 s).2.p = s.p := (pull8_same s).p_eq
@[simp] theorem pull8_mem (s : State) : (pull8 s).2.mem = s.mem := (pull8_same s).mem_eq
@[simp] theorem pull8_memMap (s : State) : (pull8 s).2.memMap = s.memMap := (pull8_same s).memMap_eq
@[simp] theorem pull8_nmiPending (s : State) : (pull8 s).2.nmiPending = s.nmiPending := (pull8_same s).nmiPending_eq
@[simp] theorem pull8_waiting (s : State) : (pull8 s).2.waiting = s.waiting := (pull8_same s).waiting_eq
@[simp] theorem pull8_stopped (s : State) : (pull8 s).2.stopped = s.stopped := (pull8_same s).stopped_eq
@[simp] theorem pull8_irqLine (s : State) : (pull8 s).2.irqLine = s.irqLine := (pull8_same s).irqLine_eq
@[simp] theorem pull8_maskEdge (s : State) : (pull8 s).2.maskEdge = s.maskEdge := (pull8_same s).maskEdge_eq
@[simp] theorem pull8_inputs (s : State) : (pull8 s).2.inputs = s.inputs := (pull8_same s).inputs_eq

@[simp] theorem push16_a (w : Word) (s : State) : (push16 w s).a = s.a := by simp [push16]
@[simp] theorem push16_x (w : Word) (s : State) : (push16 w s).x = s.x := by simp [push16]
@[simp] theorem push16_y (w : Word) (s : State) : (push16 w s).y = s.y := by simp [push16]
@[simp] theorem push16_sp (w : Word) (s : State) : (push16 w s).sp = s.sp - 1 - 1 := by simp [push16]
@[simp] theorem push16_pc (w : Word) (s : State) : (push16 w s).pc = s.pc := by simp [push16]
@[simp] theorem push16_p (w : Word) (s : State) : (push16 w s).p = s.p := by simp [push16]
@[simp] theorem push16_memMap (w : Word) (s : State) : (push16 w s).memMap = s.memMap := by simp [push16]
@[simp] theorem push16_nmiPending (w : Word) (s : State) : (push16 w s).nmiPending = s.nmiPending := by simp [push16]
@[simp] theorem push16_waiting (w : Word) (s : State) : (push16 w s).waiting = s.waiting := by simp [push16]
@[simp] theorem push16_stopped (w : Word) (s : State) : (push16 w s).stopped = s.stopped := by simp [push16]
@[simp] theorem push16_irqLine (w : Word) (s : State) : (push16 w s).irqLine = s.irqLine := by simp [push16]
@[simp] theorem push16_maskEdge (w : Word) (s : State) : (push16 w s).maskEdge = s.maskEdge := by simp [push16]
@[simp] theorem push16_inputs (w : Word) (s : State) : (push16 w s).inputs = s.inputs := by simp [push16]
@[simp] theorem push16_draws (w : Word) (s : State) : (push16 w s).draws = s.draws := by simp [push16]

theorem push16_wf (w : Word) (s : State) (h : s.mem.wf) : (push16 w s).mem.wf := push8_wf _ _ (push8_wf _ s h)

@[simp] theorem pull16_a (s : State) : (pull16 s).2.a = s.a := by simp [pull16]
@[simp] theorem pull16_x (s : State) : (pull16 s).2.x = s.x := by simp [pull16]
@[simp] theorem pull16_y (s : State) : (pull16 s).2.y = s.y := by simp [pull16]
@[simp] theorem pull16_sp (s : State) : (pull16 s).2.sp = s.sp + 1 + 1 := by simp [pull16]
@[simp] theorem pull16_pc (s : State) : (pull16 s).2.pc = s.pc := by simp [pull16]
@[simp] theorem pull16_p (s : State) : (pull16 s).2.p = s.p := by simp [pull16]
@[simp] theorem pull16_mem (s : State) : (pull16 s).2.mem = s.mem := by simp [pull16]
@[simp] theorem pull16_memMap (s : State) : (pull16 s).2.memMap = s.memMap := by simp [pull16]
@[simp] theorem pull16_nmiPending (s : State) : (pull16 s).2.nmiPending = s.nmiPending := by simp [pull16]
@[simp] theorem pull16_waiting (s : State) : (pull16 s).2.waiting = s.waiting := by simp [pull16]
@[simp] theorem pull16_stopped (s : State) : (pull16 s).2.stopped = s.stopped := by simp [pull16]
@[simp] theorem pull16_irqLine (s : State) : (pull16 s).2.irqLine = s.irqLine := by simp [pull16]
@[simp] theorem pull16_maskEdge (s : State) : (pull16 s).2.maskEdge = s.maskEdge := by simp [pull16]
@[simp] theorem pull16_inputs (s : State) : (pull16 s).2.inputs = s.inputs := by simp [pull16]

/-! ## P, exceptions, reset -/

@[simp] theorem setNZ_a (v : Byte) (s : State) : (setNZ v s).a = s.a := rfl
@[simp] theorem setNZ_x (v : Byte) (s : State) : (setNZ v s).x = s.x := rfl
@[simp] theorem setNZ_y (v : Byte) (s : State) : (setNZ v s).y = s.y := rfl
@[simp] theorem setNZ_sp (v : Byte) (s : State) : (setNZ v s).sp = s.sp := rfl
@[simp] theorem setNZ_pc (v : Byte) (s : State) : (setNZ v s).pc = s.pc := rfl
@[simp] theorem setNZ_p (v : Byte) (s : State) : (setNZ v s).p = s.p.setNZ v := rfl
@[simp] theorem setNZ_mem (v : Byte) (s : State) : (setNZ v s).mem = s.mem := rfl
@[simp] theorem setNZ_memMap (v : Byte) (s : State) : (setNZ v s).memMap = s.memMap := rfl
@[simp] theorem setNZ_nmiPending (v : Byte) (s : State) : (setNZ v s).nmiPending = s.nmiPending := rfl
@[simp] theorem setNZ_waiting (v : Byte) (s : State) : (setNZ v s).waiting = s.waiting := rfl
@[simp] theorem setNZ_stopped (v : Byte) (s : State) : (setNZ v s).stopped = s.stopped := rfl
@[simp] theorem setNZ_irqLine (v : Byte) (s : State) : (setNZ v s).irqLine = s.irqLine := rfl
@[simp] theorem setNZ_maskEdge (v : Byte) (s : State) : (setNZ v s).maskEdge = s.maskEdge := rfl
@[simp] theorem setNZ_inputs (v : Byte) (s : State) : (setNZ v s).inputs = s.inputs := rfl
@[simp] theorem setNZ_deviceLog (v : Byte) (s : State) : (setNZ v s).deviceLog = s.deviceLog := rfl
@[simp] theorem setNZ_draws (v : Byte) (s : State) : (setNZ v s).draws = s.draws := rfl

@[simp] theorem setPWithEdge_a (p : Flags) (s : State) : (setPWithEdge p s).a = s.a := rfl
@[simp] theorem setPWithEdge_x (p : Flags) (s : State) : (setPWithEdge p s).x = s.x := rfl
@[simp] theorem setPWithEdge_y (p : Flags) (s : State) : (setPWithEdge p s).y = s.y := rfl
@[simp] theorem setPWithEdge_sp (p : Flags) (s : State) : (setPWithEdge p s).sp = s.sp := rfl
@[simp] theorem setPWithEdge_pc (p : Flags) (s : State) : (setPWithEdge p s).pc = s.pc := rfl
@[simp] theorem setPWithEdge_p (p : Flags) (s : State) : (setPWithEdge p s).p = p := rfl
@[simp] theorem setPWithEdge_mem (p : Flags) (s : State) : (setPWithEdge p s).mem = s.mem := rfl
@[simp] theorem setPWithEdge_memMap (p : Flags) (s : State) : (setPWithEdge p s).memMap = s.memMap := rfl
@[simp] theorem setPWithEdge_nmiPending (p : Flags) (s : State) : (setPWithEdge p s).nmiPending = s.nmiPending := rfl
@[simp] theorem setPWithEdge_waiting (p : Flags) (s : State) : (setPWithEdge p s).waiting = s.waiting := rfl
@[simp] theorem setPWithEdge_stopped (p : Flags) (s : State) : (setPWithEdge p s).stopped = s.stopped := rfl
@[simp] theorem setPWithEdge_irqLine (p : Flags) (s : State) : (setPWithEdge p s).irqLine = s.irqLine := rfl
@[simp] theorem setPWithEdge_maskEdge (p : Flags) (s : State) : (setPWithEdge p s).maskEdge = (s.p.i != p.i) := rfl
@[simp] theorem setPWithEdge_inputs (p : Flags) (s : State) : (setPWithEdge p s).inputs = s.inputs := rfl
@[simp] theorem setPWithEdge_deviceLog (p : Flags) (s : State) : (setPWithEdge p s).deviceLog = s.deviceLog := rfl
@[simp] theorem setPWithEdge_draws (p : Flags) (s : State) : (setPWithEdge p s).draws = s.draws := rfl

@[simp] theorem enterException_a (c : Cause) (ret : Word) (s : State) : (enterException c ret s).a = s.a := by
  cases c <;> simp [enterException]
@[simp] theorem enterException_x (c : Cause) (ret : Word) (s : State) : (enterException c ret s).x = s.x := by
  cases c <;> simp [enterException]
@[simp] theorem enterException_y (c : Cause) (ret : Word) (s : State) : (enterException c ret s).y = s.y := by
  cases c <;> simp [enterException]
@[simp] theorem enterException_sp (c : Cause) (ret : Word) (s : State) : (enterException c ret s).sp = s.sp - 1 - 1 - 1 := by
  cases c <;> simp [enterException]
@[simp] theorem enterException_p (c : Cause) (ret : Word) (s : State) : (enterException c ret s).p = { s.p with i := true, d := false } := by
  cases c <;> simp [enterException]
@[simp] theorem enterException_memMap (c : Cause) (ret : Word) (s : State) : (enterException c ret s).memMap = s.memMap := by
  cases c <;> simp [enterException]
@[simp] theorem enterException_nmiPending (c : Cause) (ret : Word) (s : State) : (enterException c ret s).nmiPending = (s.nmiPending && c != .nmi) := by
  cases c <;> simp [enterException]
@[simp] theorem enterException_waiting (c : Cause) (ret : Word) (s : State) : (enterException c ret s).waiting = false := by
  cases c <;> simp [enterException]
@[simp] theorem enterException_stopped (c : Cause) (ret : Word) (s : State) : (enterException c ret s).stopped = s.stopped := by
  cases c <;> simp [enterException]
@[simp] theorem enterException_irqLine (c : Cause) (ret : Word) (s : State) : (enterException c ret s).irqLine = s.irqLine := by
  cases c <;> simp [enterException]
@[simp] theorem enterException_maskEdge (c : Cause) (ret : Word) (s : State) : (enterException c ret s).maskEdge = false := by
  cases c <;> simp [enterException]
@[simp] theorem enterException_inputs (c : Cause) (ret : Word) (s : State) : (enterException c ret s).inputs = s.inputs := by
  cases c <;> simp [enterException]

/-- An entry writes memory by its three pushes only. -/
theorem enterException_mem (c : Cause) (ret : Word) (s : State) :
    (enterException c ret s).mem = (push8 (s.p.image c.bBit) (push16 ret s)).mem := by
  cases c <;> simp [enterException]

theorem enterException_wf (c : Cause) (ret : Word) (s : State) (h : s.mem.wf) : (enterException c ret s).mem.wf := by
  rw [enterException_mem]; exact push8_wf _ _ (push16_wf _ s h)

@[simp] theorem returnFromException_a (s : State) : (returnFromException s).a = s.a := by
  simp [returnFromException]
@[simp] theorem returnFromException_x (s : State) : (returnFromException s).x = s.x := by
  simp [returnFromException]
@[simp] theorem returnFromException_y (s : State) : (returnFromException s).y = s.y := by
  simp [returnFromException]
@[simp] theorem returnFromException_sp (s : State) : (returnFromException s).sp = s.sp + 1 + 1 + 1 := by
  simp [returnFromException]
@[simp] theorem returnFromException_mem (s : State) : (returnFromException s).mem = s.mem := by
  simp [returnFromException]
@[simp] theorem returnFromException_memMap (s : State) : (returnFromException s).memMap = s.memMap := by
  simp [returnFromException]
@[simp] theorem returnFromException_nmiPending (s : State) : (returnFromException s).nmiPending = s.nmiPending := by
  simp [returnFromException]
@[simp] theorem returnFromException_waiting (s : State) : (returnFromException s).waiting = s.waiting := by
  simp [returnFromException]
@[simp] theorem returnFromException_stopped (s : State) : (returnFromException s).stopped = s.stopped := by
  simp [returnFromException]
@[simp] theorem returnFromException_irqLine (s : State) : (returnFromException s).irqLine = s.irqLine := by
  simp [returnFromException]
@[simp] theorem returnFromException_maskEdge (s : State) : (returnFromException s).maskEdge = s.maskEdge := by
  simp [returnFromException]
@[simp] theorem returnFromException_inputs (s : State) : (returnFromException s).inputs = s.inputs := by
  simp [returnFromException]

@[simp] theorem resetSequence_mem (s : State) : (resetSequence s).mem = s.mem := by
  simp [resetSequence, resetRegisters]
@[simp] theorem resetSequence_memMap (s : State) : (resetSequence s).memMap = s.memMap := by
  simp [resetSequence, resetRegisters]
@[simp] theorem resetSequence_waiting (s : State) : (resetSequence s).waiting = false := by
  simp [resetSequence, resetRegisters]
@[simp] theorem resetSequence_stopped (s : State) : (resetSequence s).stopped = false := by
  simp [resetSequence, resetRegisters]
@[simp] theorem resetSequence_irqLine (s : State) : (resetSequence s).irqLine = s.irqLine := by
  simp [resetSequence, resetRegisters]
@[simp] theorem resetSequence_maskEdge (s : State) : (resetSequence s).maskEdge = false := by
  simp [resetSequence, resetRegisters]
@[simp] theorem resetSequence_inputs (s : State) : (resetSequence s).inputs = s.inputs := by
  simp [resetSequence, resetRegisters]

/-- After the reset sequence IRQ is masked and decimal mode is off (R260). -/
theorem resetSequence_p (s : State) : (resetSequence s).p.i = true ∧ (resetSequence s).p.d = false := by
  simp [resetSequence, resetRegisters]

@[simp] theorem resetRegisters_mem (s : State) : (resetRegisters s).mem = s.mem := by simp [resetRegisters]
@[simp] theorem resetRegisters_memMap (s : State) : (resetRegisters s).memMap = s.memMap := by simp [resetRegisters]
@[simp] theorem resetRegisters_deviceLog (s : State) : (resetRegisters s).deviceLog = s.deviceLog := by
  simp [resetRegisters, drawBit]
@[simp] theorem resetRegisters_draws (s : State) : (resetRegisters s).draws = s.draws + 6 := by simp [resetRegisters, drawBit]

/-- With the reset vector in RAM or ROM, PC is the word there, and no device access is made. -/
theorem resetSequence_plain {s : State} (lo : s.isPlain 0xFFFC#16) (hi : s.isPlain 0xFFFD#16) :
    (resetSequence s).pc = word (s.byteAt 0xFFFD#16) (s.byteAt 0xFFFC#16) ∧ (resetSequence s).deviceLog = s.deviceLog := by
  have k : read16 resetVector (resetRegisters s) = _ :=
    read16_plain (a := resetVector) (by simpa [State.isPlain, resetVector] using lo)
      (by simpa [State.isPlain, resetVector] using hi)
  rw [resetSequence, k]
  simp [State.byteAt, resetVector]

/-! ## Read-modify-write and branches -/

/-- What a read-modify-write can do: to the accumulator in place, or to one byte of memory that was read before. -/
theorem modifyOperand_cases (o : ModArg) (op : Byte → Flags → Byte × Flags) (s : State) :
    (o = .acc ∧ modifyOperand o op s = (s.setA (op s.a s.p).1).setP (op s.a s.p).2) ∨
    (∃ m t v, o = .mem m ∧ s.SameButReads t ∧ (v, t) = busRead (effAddr m s).1 (effAddr m s).2 ∧
      modifyOperand o op s = (busWrite (effAddr m s).1 (op v s.p).1 t).setP (op v s.p).2) := by
  cases o with
  | acc => exact .inl ⟨rfl, rfl⟩
  | mem m =>
    have h := (effAddr_same m s).trans (busRead_same (effAddr m s).1 _)
    refine .inr ⟨m, _, _, rfl, h, rfl, ?_⟩
    rw [← h.p_eq]
    rfl

theorem branchIf_cases (c : Bool) (d : Byte) (s : State) :
    (c = true ∧ branchIf c d s = s.setPc (s.pc + sext16 d)) ∨ (c = false ∧ branchIf c d s = s) := by
  cases c <;> simp [branchIf]

@[simp] theorem branchIf_a (c : Bool) (d : Byte) (s : State) : (branchIf c d s).a = s.a := by
  cases c <;> rfl
@[simp] theorem branchIf_x (c : Bool) (d : Byte) (s : State) : (branchIf c d s).x = s.x := by
  cases c <;> rfl
@[simp] theorem branchIf_y (c : Bool) (d : Byte) (s : State) : (branchIf c d s).y = s.y := by
  cases c <;> rfl
@[simp] theorem branchIf_sp (c : Bool) (d : Byte) (s : State) : (branchIf c d s).sp = s.sp := by
  cases c <;> rfl
@[simp] theorem branchIf_p (c : Bool) (d : Byte) (s : State) : (branchIf c d s).p = s.p := by
  cases c <;> rfl
@[simp] theorem branchIf_mem (c : Bool) (d : Byte) (s : State) : (branchIf c d s).mem = s.mem := by
  cases c <;> rfl
@[simp] theorem branchIf_memMap (c : Bool) (d : Byte) (s : State) : (branchIf c d s).memMap = s.memMap := by
  cases c <;> rfl
@[simp] theorem branchIf_nmiPending (c : Bool) (d : Byte) (s : State) : (branchIf c d s).nmiPending = s.nmiPending := by
  cases c <;> rfl
@[simp] theorem branchIf_waiting (c : Bool) (d : Byte) (s : State) : (branchIf c d s).waiting = s.waiting := by
  cases c <;> rfl
@[simp] theorem branchIf_stopped (c : Bool) (d : Byte) (s : State) : (branchIf c d s).stopped = s.stopped := by
  cases c <;> rfl
@[simp] theorem branchIf_irqLine (c : Bool) (d : Byte) (s : State) : (branchIf c d s).irqLine = s.irqLine := by
  cases c <;> rfl
@[simp] theorem branchIf_maskEdge (c : Bool) (d : Byte) (s : State) : (branchIf c d s).maskEdge = s.maskEdge := by
  cases c <;> rfl
@[simp] theorem branchIf_inputs (c : Bool) (d : Byte) (s : State) : (branchIf c d s).inputs = s.inputs := by
  cases c <;> rfl
@[simp] theorem branchIf_deviceLog (c : Bool) (d : Byte) (s : State) : (branchIf c d s).deviceLog = s.deviceLog := by
  cases c <;> rfl
@[simp] theorem branchIf_draws (c : Bool) (d : Byte) (s : State) : (branchIf c d s).draws = s.draws := by
  cases c <;> rfl

/-! ## The boundary and the fetch -/

@[simp] theorem sampleInputs_a (s : State) : (sampleInputs s).a = s.a := rfl
@[simp] theorem sampleInputs_x (s : State) : (sampleInputs s).x = s.x := rfl
@[simp] theorem sampleInputs_y (s : State) : (sampleInputs s).y = s.y := rfl
@[simp] theorem sampleInputs_sp (s : State) : (sampleInputs s).sp = s.sp := rfl
@[simp] theorem sampleInputs_pc (s : State) : (sampleInputs s).pc = s.pc := rfl
@[simp] theorem sampleInputs_p (s : State) : (sampleInputs s).p = s.p := rfl
@[simp] theorem sampleInputs_mem (s : State) : (sampleInputs s).mem = s.mem := rfl
@[simp] theorem sampleInputs_memMap (s : State) : (sampleInputs s).memMap = s.memMap := rfl
@[simp] theorem sampleInputs_waiting (s : State) : (sampleInputs s).waiting = s.waiting := rfl
@[simp] theorem sampleInputs_stopped (s : State) : (sampleInputs s).stopped = s.stopped := rfl
@[simp] theorem sampleInputs_maskEdge (s : State) : (sampleInputs s).maskEdge = s.maskEdge := rfl
@[simp] theorem sampleInputs_deviceLog (s : State) : (sampleInputs s).deviceLog = s.deviceLog := rfl
@[simp] theorem sampleInputs_draws (s : State) : (sampleInputs s).draws = s.draws := rfl

theorem irqTaken_same (s : State) : s.SameButReads (irqTaken s).2 := by
  unfold irqTaken
  split
  · split
    · exact drawBit_same s
    · exact .refl s
  · exact .refl s

/-- What a turn of the wait can come to: its end with no entry, an IRQ entry, or waiting on. -/
theorem waitTurn_cases (s : State) :
    (s.irqLine = true ∧ s.p.i = true ∧ waitTurn s = .done (s.setWaiting false)) ∨
    (s.irqLine = true ∧ s.p.i = false ∧ waitTurn s = .enter .irq s) ∨
    (s.irqLine = false ∧ waitTurn s = .done s) := by
  cases h : s.irqLine <;> cases k : s.p.i <;> simp [waitTurn, h, k]

/-- What a boundary can come to: reset, staying stopped, NMI, a turn of the wait, IRQ, or a fetch. -/
theorem checkBoundary_cases (s : State) :
    ((nextInputs s).reset = true ∧ checkBoundary s = .done (resetSequence (sampleInputs s))) ∨
    (s.stopped = true ∧ checkBoundary s = .done (sampleInputs s)) ∨
    (s.stopped = false ∧ (sampleInputs s).nmiPending = true ∧
      checkBoundary s = .enter .nmi (sampleInputs s)) ∨
    (s.stopped = false ∧ s.waiting = true ∧ checkBoundary s = waitTurn (sampleInputs s)) ∨
    (s.stopped = false ∧ s.waiting = false ∧ ∃ t, (sampleInputs s).SameButReads t ∧
      (checkBoundary s = .enter .irq t ∨ checkBoundary s = .fetch (t.setMaskEdge false))) := by
  unfold checkBoundary
  cases hr : (nextInputs s).reset
  case true => exact .inl ⟨rfl, by simp⟩
  cases hs : s.stopped
  case true => exact .inr (.inl ⟨rfl, by simp [hs]⟩)
  cases hn : (sampleInputs s).nmiPending
  case true => exact .inr (.inr (.inl ⟨rfl, rfl, by simp [hs, hn]⟩))
  cases hw : s.waiting
  case true => exact .inr (.inr (.inr (.inl ⟨rfl, rfl, by simp [hs, hn, hw]⟩)))
  refine .inr (.inr (.inr (.inr ⟨rfl, rfl, _, irqTaken_same (sampleInputs s), ?_⟩)))
  cases hi : (irqTaken (sampleInputs s)).1
  · exact .inr (by simp [hs, hn, hw, hi])
  · exact .inl (by simp [hs, hn, hw, hi])

/-- A fetch reads bytes and moves PC, and nothing else. -/
theorem fetchInstr_same (s : State) :
    ∃ t, s.SameButReads t ∧ ∃ pc, (fetchInstr s).2 = t.setPc pc := by
  unfold fetchInstr
  have h0 := busRead_same s.pc s
  dsimp only
  split
  · exact ⟨_, h0, _, rfl⟩
  · exact ⟨_, h0.trans (busRead_same _ _), _, rfl⟩
  · exact ⟨_, (h0.trans (busRead_same _ _)).trans (busRead_same _ _), _, rfl⟩

@[simp] theorem fetchInstr_a (s : State) : (fetchInstr s).2.a = s.a := by
  obtain ⟨t, h, pc, e⟩ := fetchInstr_same s; rw [e]; exact h.a_eq
@[simp] theorem fetchInstr_x (s : State) : (fetchInstr s).2.x = s.x := by
  obtain ⟨t, h, pc, e⟩ := fetchInstr_same s; rw [e]; exact h.x_eq
@[simp] theorem fetchInstr_y (s : State) : (fetchInstr s).2.y = s.y := by
  obtain ⟨t, h, pc, e⟩ := fetchInstr_same s; rw [e]; exact h.y_eq
@[simp] theorem fetchInstr_sp (s : State) : (fetchInstr s).2.sp = s.sp := by
  obtain ⟨t, h, pc, e⟩ := fetchInstr_same s; rw [e]; exact h.sp_eq
@[simp] theorem fetchInstr_p (s : State) : (fetchInstr s).2.p = s.p := by
  obtain ⟨t, h, pc, e⟩ := fetchInstr_same s; rw [e]; exact h.p_eq
@[simp] theorem fetchInstr_mem (s : State) : (fetchInstr s).2.mem = s.mem := by
  obtain ⟨t, h, pc, e⟩ := fetchInstr_same s; rw [e]; exact h.mem_eq
@[simp] theorem fetchInstr_memMap (s : State) : (fetchInstr s).2.memMap = s.memMap := by
  obtain ⟨t, h, pc, e⟩ := fetchInstr_same s; rw [e]; exact h.memMap_eq
@[simp] theorem fetchInstr_nmiPending (s : State) : (fetchInstr s).2.nmiPending = s.nmiPending := by
  obtain ⟨t, h, pc, e⟩ := fetchInstr_same s; rw [e]; exact h.nmiPending_eq
@[simp] theorem fetchInstr_waiting (s : State) : (fetchInstr s).2.waiting = s.waiting := by
  obtain ⟨t, h, pc, e⟩ := fetchInstr_same s; rw [e]; exact h.waiting_eq
@[simp] theorem fetchInstr_stopped (s : State) : (fetchInstr s).2.stopped = s.stopped := by
  obtain ⟨t, h, pc, e⟩ := fetchInstr_same s; rw [e]; exact h.stopped_eq
@[simp] theorem fetchInstr_irqLine (s : State) : (fetchInstr s).2.irqLine = s.irqLine := by
  obtain ⟨t, h, pc, e⟩ := fetchInstr_same s; rw [e]; exact h.irqLine_eq
@[simp] theorem fetchInstr_maskEdge (s : State) : (fetchInstr s).2.maskEdge = s.maskEdge := by
  obtain ⟨t, h, pc, e⟩ := fetchInstr_same s; rw [e]; exact h.maskEdge_eq
@[simp] theorem fetchInstr_inputs (s : State) : (fetchInstr s).2.inputs = s.inputs := by
  obtain ⟨t, h, pc, e⟩ := fetchInstr_same s; rw [e]; exact h.inputs_eq

/-! ## A complete step -/

/-- What a step that is not cut short did: the boundary took it, an exception was taken, or the instruction fetched was run. -/
theorem completeStep_cases {s t : State} (h : completeStep s = .next t) :
    (checkBoundary s = .done t ∧ stepWrites s = []) ∨
    (∃ c u, checkBoundary s = .enter c u ∧ t = enterException c u.pc u ∧ stepWrites s = frameAddrs u) ∨
    (∃ u, checkBoundary s = .fetch u ∧ exec (fetchInstr u).1 (fetchInstr u).2 = .next t ∧
      stepWrites s = writtenAddrs (fetchInstr u).1 (fetchInstr u).2) := by
  unfold completeStep at h
  unfold stepWrites
  split at h
  · next u e => exact .inl ⟨by rw [e]; exact congrArg _ (Host.Outcome.next.inj h), rfl⟩
  · next c u e => exact .inr (.inl ⟨c, u, e, (Host.Outcome.next.inj h).symm, rfl⟩)
  · next u e => exact .inr (.inr ⟨u, e, h, rfl⟩)

/-! ## A reset inside a step -/

/-- Any bytes at some addresses: memory and the count of draws change, and nothing else; the canonical form is kept; a byte
elsewhere or outside RAM is as before; a byte of RAM there is a free value drawn on the way. -/
theorem anyBytes_spec (as : List Word) (s : State) :
    anyBytes as s = { s with mem := (anyBytes as s).mem, draws := (anyBytes as s).draws } ∧
    s.draws ≤ (anyBytes as s).draws ∧
    (s.mem.wf → (anyBytes as s).mem.wf) ∧
    (∀ b, b ∉ as ∨ ¬ s.isRam b → (anyBytes as s).byteAt b = s.byteAt b) ∧
    (∀ b ∈ as, s.isRam b → ∃ n, s.draws ≤ n ∧ (anyBytes as s).byteAt b = Config.freeByte n) := by
  induction as generalizing s with
  | nil => exact ⟨rfl, Nat.le_refl _, id, fun b _ => rfl, fun b h => absurd h (by simp)⟩
  | cons a rest ih =>
    by_cases k : s.memMap.regionAt a.toNat = .ram
    · have e : anyBytes (a :: rest) s = anyBytes rest (busWrite a (draw s).1 (draw s).2) := by simp [anyBytes, k]
      rw [e]
      have w : busWrite a (draw s).1 (draw s).2 = (draw s).2.setMem (s.mem.write a.toNat (draw s).1) := busWrite_ram _ k
      obtain ⟨hs, hd, hw, ho, hf⟩ := ih (busWrite a (draw s).1 (draw s).2)
      have hm : ∀ b, (busWrite a (draw s).1 (draw s).2).isRam b ↔ s.isRam b := fun b => by rw [w]; exact Iff.rfl
      have hd : s.draws + 1 ≤ (anyBytes rest (busWrite a (draw s).1 (draw s).2)).draws := by simpa using hd
      refine ⟨?_, Nat.le_trans (Nat.le_succ _) hd, fun h => hw (busWrite_wf _ _ _ h), fun b hb => ?_, fun b hb hr => ?_⟩
      · rw [hs, w]; rfl
      · rw [ho b (by rw [hm]; exact hb.imp (fun h => fun m => h (List.mem_cons_of_mem _ m)) id)]
        rcases hb with hb | hb
        · exact busWrite_byteAt_other _ _ (fun e => hb (by simp [e]))
        · exact busWrite_byteAt_notRam _ _ hb
      · by_cases hin : b ∈ rest
        · obtain ⟨n, hn, en⟩ := hf b hin ((hm b).2 hr)
          have hn : s.draws + 1 ≤ n := by simpa using hn
          exact ⟨n, Nat.le_trans (Nat.le_succ _) hn, en⟩
        · have : b = a := by simpa [hin] using hb
          subst this
          exact ⟨s.draws, Nat.le_refl _, by rw [ho b (.inl hin)]; exact busWrite_byteAt_same (s := (draw s).2) _ k⟩
    · have e : anyBytes (a :: rest) s = anyBytes rest s := by simp [anyBytes, k]
      rw [e]
      obtain ⟨hs, hd, hw, ho, hf⟩ := ih s
      refine ⟨hs, hd, hw, fun b hb => ?_, fun b hb hr => ?_⟩
      · by_cases hba : b = a
        · exact ho b (.inr (by rw [hba]; exact k))
        · exact ho b (hb.imp (fun h => fun m => h (List.mem_cons_of_mem _ m)) id)
      · refine hf b ?_ hr
        rcases List.mem_cons.mp hb with rfl | h
        · exact absurd hr k
        · exact h

/-- Any bytes handed to devices: the same accesses but for those bytes; only the count of draws changes. -/
theorem anyHanded_spec (l : List DeviceAccess) (s : State) :
    (anyHanded l s).1.map DeviceAccess.withoutValue = l.map DeviceAccess.withoutValue ∧
    (anyHanded l s).2 = { s with draws := (anyHanded l s).2.draws } ∧
    s.draws ≤ (anyHanded l s).2.draws := by
  induction l generalizing s with
  | nil => exact ⟨rfl, rfl, Nat.le_refl _⟩
  | cons x rest ih =>
    cases x with
    | read a v => simpa [anyHanded, DeviceAccess.withoutValue] using ih s
    | write a v =>
      obtain ⟨h1, h2, h3⟩ := ih (draw s).2
      refine ⟨by simpa [anyHanded, DeviceAccess.withoutValue] using h1, ?_, Nat.le_trans (Nat.le_succ _) h3⟩
      simp only [anyHanded]
      rw [h2]; rfl

/-- Cutting the accesses short: of those made since `old` the newest are gone, and the others kept but for the bytes handed over;
nothing else changes but the count of draws. -/
theorem cutAccesses_spec (old new : List DeviceAccess) (s : State) (h : s.deviceLog = new ++ old) :
    cutAccesses old s = { s with deviceLog := (cutAccesses old s).deviceLog, draws := (cutAccesses old s).draws } ∧
    s.draws ≤ (cutAccesses old s).draws ∧
    ∃ gone made kept, new = gone ++ made ∧ (cutAccesses old s).deviceLog = kept ++ old ∧
      kept.map DeviceAccess.withoutValue = made.map DeviceAccess.withoutValue := by
  have ht : s.deviceLog.take (s.deviceLog.length - old.length) = new := by simp [h]
  have e : cutAccesses old s = (anyHanded new (draw s).2).2.setDeviceLog
      ((anyHanded new (draw s).2).1.drop ((draw s).1.toNat % (new.length + 1)) ++ old) := by
    simp only [cutAccesses, ht]
  rw [e]
  obtain ⟨h1, h2, h3⟩ := anyHanded_spec new (draw s).2
  refine ⟨?_, Nat.le_trans (Nat.le_succ _) h3, _, _, _,
    (List.take_append_drop ((draw s).1.toNat % (new.length + 1)) new).symm, rfl, ?_⟩
  · rw [h2]; rfl
  · rw [List.map_drop, h1, List.map_drop]

/-! ## The step -/

/-- With no reset inside, a step is a complete one. -/
theorem step_complete {s : State} (h : (nextInputs s).resetInside = false) : step s = completeStep s := by simp [step, h]

/-- What a step that goes on did: a complete step, or one that a reset cut short. -/
theorem step_cases {s t : State} (h : step s = .next t) :
    completeStep s = .next t ∨ ∃ u, completeStep s = .next u ∧ t = interrupted s u := by
  unfold step at h
  split at h
  · split at h
    · next u e => exact .inr ⟨u, e, (Host.Outcome.next.inj h).symm⟩
    · cases h
    · cases h
  · exact .inl h

end Sys2Proof.Machine
end

