-- ==== Sys2Proof/Laws/Exec.lean ====
section
/-! SUPPORT. Which bytes of memory an instruction, an exception entry and a complete step can change: RAM among the addresses that
`writtenAddrs`, `frameAddrs` and `stepWrites` give (20_memory.md R35). -/

namespace Sys2Proof.Machine

/-- Every byte of memory but those at the listed addresses, and all that is not RAM, is as in `s`. -/
def State.SameBytesBut (s t : State) (as : List Word) : Prop := ∀ b, b ∉ as ∨ ¬ s.isRam b → t.byteAt b = s.byteAt b

/-- The same memory is the same bytes, whatever else changed. -/
theorem State.SameBytesBut.of_mem {s t : State} (h : t.mem = s.mem) (as : List Word) : s.SameBytesBut t as :=
  fun b _ => by simp [State.byteAt, h]

theorem busWrite_bytes (a : Word) (v : Byte) (s : State) : s.SameBytesBut (busWrite a v s) [a] := fun b h => by
  rcases h with h | h
  · exact busWrite_byteAt_other _ _ (by simpa using h)
  · exact busWrite_byteAt_notRam _ _ h

theorem State.SameBytesBut.trans {s t u : State} {as bs : List Word} (h : s.SameBytesBut t as) (hm : t.memMap = s.memMap)
    (k : t.SameBytesBut u bs) : s.SameBytesBut u (as ++ bs) := fun b hb => by
  have hr : t.isRam b ↔ s.isRam b := by simp [State.isRam, hm]
  rw [k b (hb.imp (fun n m => n (by simp [m])) (fun n m => n (hr.1 m))), h b (hb.imp (fun n m => n (by simp [m])) id)]

theorem push8_bytes (v : Byte) (s : State) : s.SameBytesBut (push8 v s) [stackAddr s.sp] := busWrite_bytes _ _ s

theorem push16_bytes (w : Word) (s : State) : s.SameBytesBut (push16 w s) [stackAddr s.sp, stackAddr (s.sp - 1)] := by
  have h := (push8_bytes (hiByte w) s).trans (by simp) (push8_bytes (loByte w) _)
  simpa [push16] using h

theorem enterException_bytes (c : Cause) (ret : Word) (s : State) : s.SameBytesBut (enterException c ret s) (frameAddrs s) := by
  have h := (push16_bytes ret s).trans (by simp) (push8_bytes (s.p.image c.bBit) _)
  have e : s.sp - 1 - 1 = s.sp - 2 := by bv_omega
  intro b hb
  simp only [push16_sp, e] at h
  have := h b hb
  simpa [State.byteAt, enterException_mem] using this

theorem store_bytes (m : MemArg) (v : Byte) (s : State) : s.SameBytesBut (store m v s) [(effAddr m s).1] := by
  have h := effAddr_same m s
  intro b hb
  rw [← h.byteAt_eq]
  exact busWrite_bytes _ _ _ b (by simpa [State.isRam, h.memMap_eq] using hb)

theorem modifyOperand_bytes (o : ModArg) (op : Byte → Flags → Byte × Flags) (s : State) :
    s.SameBytesBut (modifyOperand o op s) (modWrites o s) := by
  rcases modifyOperand_cases o op s with ⟨rfl, e⟩ | ⟨m, t, v, rfl, h, -, e⟩ <;> rw [e]
  · exact .of_mem rfl _
  · intro b hb
    rw [← h.byteAt_eq]
    exact busWrite_bytes _ _ _ b (by simpa [State.isRam, h.memMap_eq, modWrites] using hb)

/-- An addition or subtraction writes no memory. -/
theorem addOrSubtract_mem {binary decimal : Byte → Byte → Bool → Sum} {m : Byte} {s t : State}
    (h : addOrSubtract binary decimal m s = .next t) : t.mem = s.mem := by
  simp only [addOrSubtract, decimalSum, Config.decimalPolicy] at h
  split at h
  · split at h <;> cases h <;> rfl
  · cases h; rfl

/-- An instruction changes no byte of memory but RAM among the addresses it writes. -/
theorem exec_bytes {i : Instr} {s t : State} (h : exec i s = .next t) : s.SameBytesBut t (writtenAddrs i s) := by
  cases i
  case adc o => exact .of_mem ((addOrSubtract_mem h).trans (readOperand_same o s).mem_eq) _
  case sbc o => exact .of_mem ((addOrSubtract_mem h).trans (readOperand_same o s).mem_eq) _
  case sta m => cases h; exact store_bytes m _ s
  case stx m => cases h; exact store_bytes m _ s
  case sty m => cases h; exact store_bytes m _ s
  case stz m => cases h; exact store_bytes m _ s
  case jsr w => cases h; exact push16_bytes _ s
  case brk => cases h; exact enterException_bytes _ _ s
  case bit o => cases o <;> cases h <;> exact .of_mem (readOperand_same _ s).mem_eq _
  case jmp o =>
    cases o <;> cases h
    · exact .of_mem rfl _
    · exact .of_mem (read16_same _ s).mem_eq _
    · exact .of_mem (read16_same _ s).mem_eq _
  all_goals first
    | (cases h; exact push8_bytes _ s)
    | (cases h; exact modifyOperand_bytes _ _ s)
    | (cases h; refine .of_mem ?_ _; first
        | rfl
        | exact (readOperand_same _ s).mem_eq
        | exact pull8_mem s
        | exact branchIf_mem _ _ s
        | exact (branchIf_mem _ _ _).trans (busRead_same _ s).mem_eq
        | exact returnFromException_mem s
        | simp [pull16])

/-- An instruction keeps the canonical form of memory. -/
theorem exec_wf {i : Instr} {s t : State} (h : exec i s = .next t) (hw : s.mem.wf) : t.mem.wf := by
  have same : ∀ u : State, u.mem = s.mem → u.mem.wf := fun u e => by rw [e]; exact hw
  have stored : ∀ (m : MemArg) (v : Byte), (store m v s).mem.wf := fun m v =>
    busWrite_wf _ v _ (same _ (effAddr_same m s).mem_eq)
  have modified : ∀ (o : ModArg) (op : Byte → Flags → Byte × Flags), (modifyOperand o op s).mem.wf := fun o op => by
    rcases modifyOperand_cases o op s with ⟨-, e⟩ | ⟨m, t, v, -, k, -, e⟩ <;> rw [e]
    · exact hw
    · exact busWrite_wf _ _ _ (same _ k.mem_eq)
  cases i
  case adc o => exact same _ ((addOrSubtract_mem h).trans (readOperand_same o s).mem_eq)
  case sbc o => exact same _ ((addOrSubtract_mem h).trans (readOperand_same o s).mem_eq)
  case sta m => cases h; exact stored m _
  case stx m => cases h; exact stored m _
  case sty m => cases h; exact stored m _
  case stz m => cases h; exact stored m _
  case jsr w => cases h; exact push16_wf _ s hw
  case brk => cases h; exact enterException_wf _ _ s hw
  case bit o => cases o <;> cases h <;> exact same _ (readOperand_same _ s).mem_eq
  case jmp o =>
    cases o <;> cases h
    · exact hw
    · exact same _ (read16_same _ s).mem_eq
    · exact same _ (read16_same _ s).mem_eq
  all_goals first
    | (cases h; exact push8_wf _ s hw)
    | (cases h; exact modified _ _)
    | (cases h; refine same _ ?_; first
        | rfl
        | exact (readOperand_same _ s).mem_eq
        | exact pull8_mem s
        | exact branchIf_mem _ _ s
        | exact (branchIf_mem _ _ _).trans (busRead_same _ s).mem_eq
        | exact returnFromException_mem s
        | simp [pull16])

/-- What a boundary comes to has the memory and the map of before. -/
theorem checkBoundary_mem (s : State) :
    match checkBoundary s with
    | .done t => t.mem = s.mem ∧ t.memMap = s.memMap
    | .enter _ t => t.mem = s.mem ∧ t.memMap = s.memMap
    | .fetch t => t.mem = s.mem ∧ t.memMap = s.memMap := by
  rcases checkBoundary_cases s with ⟨-, k⟩ | ⟨-, k⟩ | ⟨-, -, k⟩ | ⟨-, -, k⟩ | ⟨-, -, v, hv, k | k⟩
  case inr.inr.inr.inl =>
    rcases waitTurn_cases (sampleInputs s) with ⟨-, -, q⟩ | ⟨-, -, q⟩ | ⟨-, q⟩ <;> rw [k, q] <;> exact ⟨rfl, rfl⟩
  case inr.inr.inr.inr.inl => rw [k]; exact ⟨hv.mem_eq, hv.memMap_eq⟩
  case inr.inr.inr.inr.inr => rw [k]; exact ⟨hv.mem_eq, hv.memMap_eq⟩
  all_goals rw [k]; simp

/-- A complete step changes no byte of memory but RAM among the addresses it writes. -/
theorem completeStep_bytes {s t : State} (h : completeStep s = .next t) : s.SameBytesBut t (stepWrites s) := by
  have enter : ∀ (c : Cause) (u : State), u.mem = s.mem → u.memMap = s.memMap →
      s.SameBytesBut (enterException c u.pc u) (frameAddrs u) := fun c u hm hr =>
    (State.SameBytesBut.of_mem hm []).trans hr (enterException_bytes c u.pc u)
  have m := checkBoundary_mem s
  rcases completeStep_cases h with ⟨e, w⟩ | ⟨c, u, e, rfl, w⟩ | ⟨u, e, he, w⟩ <;> rw [w]
  · rw [e] at m; exact .of_mem m.1 _
  · rw [e] at m; exact enter c u m.1 m.2
  · rw [e] at m
    obtain ⟨hm, hr⟩ := m
    exact (State.SameBytesBut.of_mem (t := (fetchInstr u).2) (by simp [hm]) []).trans (by simp [hr]) (exec_bytes he)

end Sys2Proof.Machine
end

