-- ==== Sys2Proof/Laws/Accesses.lean ====
section
/-! SUPPORT. Device accesses and free values over time: every operation, instruction and complete step puts its device accesses in
front of those made before, and never lowers the count of draws (20_memory.md R40, logs 5 and 9). -/

namespace Sys2Proof.Machine

/-- `t` has the device accesses of `s` behind its own, and at least as many draws. -/
def State.Goes (s t : State) : Prop := (∃ new, t.deviceLog = new ++ s.deviceLog) ∧ s.draws ≤ t.draws

theorem State.Goes.refl (s : State) : s.Goes s := ⟨⟨[], rfl⟩, Nat.le_refl _⟩

theorem State.Goes.trans {s t u : State} (h : s.Goes t) (k : t.Goes u) : s.Goes u := by
  obtain ⟨⟨a, ha⟩, h2⟩ := h
  obtain ⟨⟨b, hb⟩, k2⟩ := k
  exact ⟨⟨b ++ a, by rw [hb, ha]; simp⟩, Nat.le_trans h2 k2⟩

/-- A change of other fields goes on from the same accesses and draws. -/
theorem State.Goes.of {s t u : State} (h : s.Goes t) (e : u.deviceLog = t.deviceLog) (f : u.draws = t.draws) : s.Goes u := by
  unfold State.Goes at *
  rw [e, f]
  exact h

theorem State.Goes.setA {s t : State} (h : s.Goes t) (v : Byte) : s.Goes (t.setA v) :=
  h.of (State.setA_deviceLog _ _) (State.setA_draws _ _)
theorem State.Goes.setX {s t : State} (h : s.Goes t) (v : Byte) : s.Goes (t.setX v) :=
  h.of (State.setX_deviceLog _ _) (State.setX_draws _ _)
theorem State.Goes.setY {s t : State} (h : s.Goes t) (v : Byte) : s.Goes (t.setY v) :=
  h.of (State.setY_deviceLog _ _) (State.setY_draws _ _)
theorem State.Goes.setSp {s t : State} (h : s.Goes t) (v : Byte) : s.Goes (t.setSp v) :=
  h.of (State.setSp_deviceLog _ _) (State.setSp_draws _ _)
theorem State.Goes.setPc {s t : State} (h : s.Goes t) (v : Word) : s.Goes (t.setPc v) :=
  h.of (State.setPc_deviceLog _ _) (State.setPc_draws _ _)
theorem State.Goes.setP {s t : State} (h : s.Goes t) (v : Flags) : s.Goes (t.setP v) :=
  h.of (State.setP_deviceLog _ _) (State.setP_draws _ _)
theorem State.Goes.setNmiPending {s t : State} (h : s.Goes t) (v : Bool) : s.Goes (t.setNmiPending v) :=
  h.of (State.setNmiPending_deviceLog _ _) (State.setNmiPending_draws _ _)
theorem State.Goes.setWaiting {s t : State} (h : s.Goes t) (v : Bool) : s.Goes (t.setWaiting v) :=
  h.of (State.setWaiting_deviceLog _ _) (State.setWaiting_draws _ _)
theorem State.Goes.setStopped {s t : State} (h : s.Goes t) (v : Bool) : s.Goes (t.setStopped v) :=
  h.of (State.setStopped_deviceLog _ _) (State.setStopped_draws _ _)
theorem State.Goes.setMaskEdge {s t : State} (h : s.Goes t) (v : Bool) : s.Goes (t.setMaskEdge v) :=
  h.of (State.setMaskEdge_deviceLog _ _) (State.setMaskEdge_draws _ _)

/-! ## Operations -/

theorem draw_goes (s : State) : s.Goes (draw s).2 := ⟨⟨[], rfl⟩, Nat.le_succ _⟩

theorem drawBit_goes (s : State) : s.Goes (drawBit s).2 := draw_goes s

theorem busRead_goes (a : Word) (s : State) : s.Goes (busRead a s).2 := by
  rcases busRead_cases a s with ⟨-, e⟩ | ⟨-, e⟩ | ⟨-, e⟩ <;> rw [e]
  · exact .refl s
  · exact ⟨⟨[_], rfl⟩, Nat.le_succ _⟩
  · exact ⟨⟨[], rfl⟩, Nat.le_succ _⟩

theorem busWrite_goes (a : Word) (v : Byte) (s : State) : s.Goes (busWrite a v s) := ⟨⟨_, busWrite_deviceLog a v s⟩, by simp⟩

theorem read16_goes (a : Word) (s : State) : s.Goes (read16 a s).2 := (busRead_goes _ _).trans (busRead_goes _ _)

theorem read16zp_goes (z : Byte) (s : State) : s.Goes (read16zp z s).2 := (busRead_goes _ _).trans (busRead_goes _ _)

theorem effAddr_goes (m : MemArg) (s : State) : s.Goes (effAddr m s).2 := by
  cases m <;> first | exact .refl s | exact read16zp_goes _ _

theorem readOperand_goes (o : ReadArg) (s : State) : s.Goes (readOperand o s).2 := by
  cases o
  · exact .refl s
  · exact (effAddr_goes _ _).trans (busRead_goes _ _)

theorem store_goes (m : MemArg) (v : Byte) (s : State) : s.Goes (store m v s) := (effAddr_goes _ _).trans (busWrite_goes _ _ _)

theorem modifyOperand_goes (o : ModArg) (op : Byte → Flags → Byte × Flags) (s : State) : s.Goes (modifyOperand o op s) := by
  cases o
  · exact ((State.Goes.refl s).setA _).setP _
  · exact (((effAddr_goes _ _).trans (busRead_goes _ _)).trans (busWrite_goes _ _ _)).setP _

theorem push8_goes (v : Byte) (s : State) : s.Goes (push8 v s) := (busWrite_goes _ _ _).setSp _

theorem push16_goes (w : Word) (s : State) : s.Goes (push16 w s) := (push8_goes _ _).trans (push8_goes _ _)

theorem pull8_goes (s : State) : s.Goes (pull8 s).2 := ((State.Goes.refl s).setSp _).trans (busRead_goes _ _)

theorem pull16_goes (s : State) : s.Goes (pull16 s).2 := (pull8_goes _).trans (pull8_goes _)

theorem enterException_goes (c : Cause) (ret : Word) (s : State) : s.Goes (enterException c ret s) := by
  unfold enterException
  refine (State.Goes.trans (State.Goes.setMaskEdge (State.Goes.setWaiting ?_ _) _) (read16_goes _ _)).setPc _
  have h := (push16_goes ret s).trans (push8_goes (s.p.image c.bBit) _)
  split
  · exact (h.setP _).setNmiPending _
  · exact h.setP _

theorem returnFromException_goes (s : State) : s.Goes (returnFromException s) :=
  (((pull8_goes s).setP _).trans (pull16_goes _)).setPc _

theorem resetSequence_goes (s : State) : s.Goes (resetSequence s) :=
  (State.Goes.trans ⟨⟨[], by simp⟩, by simp⟩ (read16_goes resetVector (resetRegisters s))).setPc _

theorem branchIf_goes (taken : Bool) (d : Byte) (s : State) : s.Goes (branchIf taken d s) := by
  cases taken <;> exact .refl s

theorem addOrSubtract_goes {binary decimal : Byte → Byte → Bool → Sum} {m : Byte} {s t : State}
    (h : addOrSubtract binary decimal m s = .next t) : s.Goes t := by
  simp only [addOrSubtract, decimalSum, Config.decimalPolicy] at h
  split at h
  · split at h <;> cases h
    · exact ((drawBit_goes s).setA _).setP _
    · exact (((draw_goes s).trans (draw_goes (draw s).2)).setA _).setP _
  · cases h
    exact ((State.Goes.refl s).setA _).setP _

/-! ## Instructions and steps -/

theorem exec_goes {i : Instr} {s t : State} (h : exec i s = .next t) : s.Goes t := by
  cases i
  case adc o => exact (readOperand_goes o s).trans (addOrSubtract_goes h)
  case sbc o => exact (readOperand_goes o s).trans (addOrSubtract_goes h)
  case sta m => cases h; exact store_goes m _ s
  case stx m => cases h; exact store_goes m _ s
  case sty m => cases h; exact store_goes m _ s
  case stz m => cases h; exact store_goes m _ s
  case jsr w => cases h; exact push16_goes _ s
  case brk => cases h; exact enterException_goes _ _ s
  case rti => cases h; exact returnFromException_goes s
  case rts => cases h; exact pull16_goes s
  case bit o => cases o <;> cases h <;> exact readOperand_goes _ s
  case jmp o => cases o <;> cases h <;> first | exact .refl s | exact read16_goes _ s
  all_goals first
    | (cases h; exact push8_goes _ s)
    | (cases h; exact modifyOperand_goes _ _ s)
    | (cases h; exact readOperand_goes _ s)
    | (cases h; exact pull8_goes s)
    | (cases h; exact branchIf_goes _ _ s)
    | (cases h; exact (busRead_goes _ s).trans (branchIf_goes _ _ _))
    | (cases h; exact ⟨⟨[], rfl⟩, Nat.le_refl _⟩)

theorem irqTaken_goes (s : State) : s.Goes (irqTaken s).2 := by
  unfold irqTaken
  split
  · split
    · exact drawBit_goes s
    · exact .refl s
  · exact .refl s

theorem checkBoundary_goes (s : State) :
    match checkBoundary s with
    | .done t => s.Goes t
    | .enter _ t => s.Goes t
    | .fetch t => s.Goes t := by
  have h0 : s.Goes (sampleInputs s) := .refl s
  unfold checkBoundary waitTurn
  dsimp only
  cases (nextInputs s).reset
  case true => exact h0.trans (resetSequence_goes _)
  cases (sampleInputs s).stopped
  case true => exact h0
  cases (sampleInputs s).nmiPending
  case true => exact h0
  cases (sampleInputs s).waiting
  case true =>
    cases (sampleInputs s).irqLine
    · exact h0
    · cases (sampleInputs s).p.i
      · exact h0
      · exact h0.setWaiting _
  have h1 := h0.trans (irqTaken_goes _)
  cases (irqTaken (sampleInputs s)).1
  · exact h1.setMaskEdge _
  · exact h1

theorem fetchInstr_goes (s : State) : s.Goes (fetchInstr s).2 := by
  unfold fetchInstr
  dsimp only
  split
  · exact (busRead_goes _ _).setPc _
  · exact ((busRead_goes _ _).trans (busRead_goes _ _)).setPc _
  · exact (((busRead_goes _ _).trans (busRead_goes _ _)).trans (busRead_goes _ _)).setPc _

theorem completeStep_goes {s t : State} (h : completeStep s = .next t) : s.Goes t := by
  have m := checkBoundary_goes s
  rcases completeStep_cases h with ⟨e, -⟩ | ⟨c, u, e, rfl, -⟩ | ⟨u, e, he, -⟩ <;> rw [e] at m
  · exact m
  · exact m.trans (enterException_goes _ _ _)
  · exact (m.trans (fetchInstr_goes u)).trans (exec_goes he)

end Sys2Proof.Machine
end

