-- ==== Sys2Proof/Laws/Flags.lean ====
section
/-! SUPPORT. What each flag computation gives, said once in arithmetic: the shifts, the steps by one, the adders, the bit operations. -/

namespace Sys2Proof.Machine

/-- Bit 7 is the sign bit. -/
theorem bitOf_seven (v : Byte) : bitOf v 7 = v.msb := by simp [bitOf, BitVec.msb_eq_getLsbD_last]

theorem bitOf_seven_eq_decide (v : Byte) : bitOf v 7 = decide (128 ≤ v.toNat) := by
  rw [bitOf_seven, BitVec.msb_eq_decide]

theorem bitOf_zero_eq_decide (v : Byte) : bitOf v 0 = decide (v.toNat % 2 = 1) := by
  simp [bitOf, BitVec.getLsbD, Nat.testBit_zero]

theorem Flags.setNZ_eq (p : Flags) (v : Byte) : p.setNZ v = { p with n := v.msb, z := v == 0#8 } := by
  simp [Flags.setNZ, bitOf_seven]

/-! ## The image of P -/

/-- P comes back from its image, whatever the B bit (R15). -/
@[simp] theorem Flags.ofByte_image (p : Flags) (b : Bool) : Flags.ofByte (p.image b) = p := by
  obtain ⟨n, v, d, i, z, c⟩ := p
  revert n v d i z c b
  decide

/-! ## Shifts -/

theorem aslOp_eq (a : Byte) (p : Flags) :
    aslOp a p =
      let r := BitVec.ofNat 8 (2 * a.toNat)
      (r, { p with c := decide (128 ≤ a.toNat), n := r.msb, z := r == 0#8 }) := by
  have value : a <<< 1 = BitVec.ofNat 8 (2 * a.toNat) := by
    apply BitVec.eq_of_toNat_eq; simp [Nat.shiftLeft_eq, Nat.mul_comm]
  simp only [aslOp, Flags.setNZ_eq, value, bitOf_seven_eq_decide]

theorem lsrOp_eq (a : Byte) (p : Flags) :
    lsrOp a p =
      let r := BitVec.ofNat 8 (a.toNat / 2)
      (r, { p with c := decide (a.toNat % 2 = 1), n := r.msb, z := r == 0#8 }) := by
  have value : a >>> 1 = BitVec.ofNat 8 (a.toNat / 2) := by
    apply BitVec.eq_of_toNat_eq; simp [Nat.shiftRight_eq_div_pow]; omega
  simp only [lsrOp, Flags.setNZ_eq, value, bitOf_zero_eq_decide]

theorem rolOp_eq (a : Byte) (p : Flags) :
    rolOp a p =
      let r := BitVec.ofNat 8 (2 * a.toNat + p.c.toNat)
      (r, { p with c := decide (128 ≤ a.toNat), n := r.msb, z := r == 0#8 }) := by
  have value : ∀ (a : Byte) (c : Bool), a <<< 1 ||| (BitVec.ofBool c).setWidth 8 = BitVec.ofNat 8 (2 * a.toNat + c.toNat) := by
    decide +kernel
  simp only [rolOp, Flags.setNZ_eq, value, bitOf_seven_eq_decide a]

theorem rorOp_eq (a : Byte) (p : Flags) :
    rorOp a p =
      let r := BitVec.ofNat 8 (a.toNat / 2 + 128 * p.c.toNat)
      (r, { p with c := decide (a.toNat % 2 = 1), n := r.msb, z := r == 0#8 }) := by
  have value : ∀ (a : Byte) (c : Bool),
      a >>> 1 ||| (BitVec.ofBool c).setWidth 8 <<< 7 = BitVec.ofNat 8 (a.toNat / 2 + 128 * c.toNat) := by
    decide +kernel
  simp only [rorOp, Flags.setNZ_eq, value, bitOf_zero_eq_decide]

/-! ## Steps by one, bit operations -/

theorem incOp_eq (v : Byte) (p : Flags) : incOp v p = (v + 1, { p with n := (v + 1).msb, z := v + 1 == 0#8 }) := by
  simp only [incOp, Flags.setNZ_eq]

theorem decOp_eq (v : Byte) (p : Flags) : decOp v p = (v - 1, { p with n := (v - 1).msb, z := v - 1 == 0#8 }) := by
  simp only [decOp, Flags.setNZ_eq]

/-- RMBn clears bit `n` and no other. -/
theorem rmbOp_getLsbD {n k : Nat} (v : Byte) (p : Flags) (hk : k < 8) :
    (rmbOp n v p).1.getLsbD k = (v.getLsbD k && k != n) := by
  simp only [rmbOp, bitMask, BitVec.getLsbD_and, BitVec.getLsbD_not, BitVec.getLsbD_shiftLeft, BitVec.getLsbD_one, hk]
  rcases Nat.lt_trichotomy k n with h | h | h
  · simp [h, Nat.ne_of_lt h]
  · simp [h]
  · simp [Nat.not_lt.mpr (Nat.le_of_lt h), Nat.ne_of_gt h, Nat.sub_eq_zero_iff_le, Nat.not_le.mpr h]

/-- SMBn sets bit `n` and no other. -/
theorem smbOp_getLsbD {n k : Nat} (v : Byte) (p : Flags) (hk : k < 8) :
    (smbOp n v p).1.getLsbD k = (v.getLsbD k || k == n) := by
  simp only [smbOp, bitMask, BitVec.getLsbD_or, BitVec.getLsbD_shiftLeft, BitVec.getLsbD_one, hk]
  rcases Nat.lt_trichotomy k n with h | h | h
  · simp [h, Nat.ne_of_lt h]
  · simp [h]
  · simp [Nat.not_lt.mpr (Nat.le_of_lt h), Nat.ne_of_gt h, Nat.sub_eq_zero_iff_le, Nat.not_le.mpr h]

/-! ## The binary adder -/

/-- Binary addition in arithmetic: the sum modulo 256, the unsigned carry, the signed overflow (R160). -/
theorem adcBinary_eq (a m : Byte) (c : Bool) :
    adcBinary a m c =
      { value := BitVec.ofNat 8 (a.toNat + m.toNat + c.toNat)
        carry := decide (255 < a.toNat + m.toNat + c.toNat)
        overflow := decide (a.toInt + m.toInt + c.toNat < -128 ∨ 127 < a.toInt + m.toInt + c.toNat) } := by
  have hc : c.toNat ≤ 1 := Bool.toNat_le c
  have ha := a.isLt
  have hm := m.isLt
  have bit (x y z : Byte) : bitOf ((x ^^^ z) &&& (y ^^^ z)) 7 = ((bitOf x 7 != bitOf z 7) && (bitOf y 7 != bitOf z 7)) := by
    simp [bitOf, bne]
  simp only [adcBinary, bit, bitOf_seven_eq_decide, BitVec.toNat_ofNat, BitVec.toInt_eq_toNat_cond, Sum.mk.injEq, true_and]
  refine ⟨by simp only [decide_eq_decide]; omega, ?_⟩
  rw [Bool.eq_iff_iff]
  simp only [Bool.and_eq_true, bne_iff_ne, ne_eq, decide_eq_decide, decide_eq_true_eq]
  split <;> split <;> omega

/-- Binary subtraction in arithmetic: the difference modulo 256, no borrow, the signed overflow (R161). -/
theorem sbcBinary_eq (a m : Byte) (c : Bool) :
    sbcBinary a m c =
      { value := a - m - BitVec.ofNat 8 (1 - c.toNat)
        carry := decide (m.toNat + (1 - c.toNat) ≤ a.toNat)
        overflow := decide (a.toInt - m.toInt - (1 - c.toNat : Nat) < -128 ∨ 127 < a.toInt - m.toInt - (1 - c.toNat : Nat)) } := by
  have hc : c.toNat ≤ 1 := Bool.toNat_le c
  have ha := a.isLt
  have hm := m.isLt
  have flip : m ^^^ 0xFF#8 = ~~~m := by rw [BitVec.xor_comm]; exact BitVec.allOnes_xor (x := m)
  have value : (m ^^^ 0xFF#8).toNat = 255 - m.toNat := by rw [flip, BitVec.toNat_not]
  rw [sbcBinary, adcBinary_eq]
  simp only [BitVec.toInt_eq_toNat_cond, value, Sum.mk.injEq]
  refine ⟨?_, by simp only [decide_eq_decide]; omega, ?_⟩
  · apply BitVec.eq_of_toNat_eq
    simp only [BitVec.toNat_ofNat, BitVec.toNat_sub]
    omega
  · rw [Bool.eq_iff_iff]
    simp only [decide_eq_true_eq]
    split <;> split <;> omega

end Sys2Proof.Machine
end

