-- ==== Sys2Proof/Laws/PerInstr.lean ====
section
/-! SUPPORT. A family of statements about each instruction as syntax: its encoding has its length (30_encoding.md R50, R71, R90). -/

namespace Sys2Proof.Laws.EncodedLength

/-- The bytes of an instruction, where it has any, are as many as its length. -/
def Statement (i : Instr) : Prop := ∀ bs, encode i = some bs → bs.length = i.length

/-- The bytes of a memory operand's instruction are as many as its mode's length. -/
theorem ofMem_length (t : OpcodeSet) (m : MemArg) : ∀ bs, t.ofMem m = some bs → bs.length = m.mode.length := by
  intro bs h
  cases m <;> simp only [OpcodeSet.ofMem, wordBytes, Option.map_eq_some_iff] at h <;> obtain ⟨op, -, rfl⟩ := h <;> rfl

theorem ofRead_length (t : OpcodeSet) (o : ReadArg) : ∀ bs, t.ofRead o = some bs → bs.length = o.mode.length := by
  cases o with
  | imm v => intro bs h; simp only [OpcodeSet.ofRead, Option.map_eq_some_iff] at h; obtain ⟨op, -, rfl⟩ := h; rfl
  | mem m => exact ofMem_length t m

theorem ofMod_length (t : OpcodeSet) (o : ModArg) : ∀ bs, t.ofMod o = some bs → bs.length = o.mode.length := by
  cases o with
  | acc => intro bs h; simp only [OpcodeSet.ofMod, Option.map_eq_some_iff] at h; obtain ⟨op, -, rfl⟩ := h; rfl
  | mem m => exact ofMem_length t m

/-- Bytes written out have the length that they have. -/
theorem of_bytes {i : Instr} {l : List Byte} (h : encode i = some l) (e : l.length = i.length) : Statement i := by
  intro bs hb
  rw [h] at hb
  cases hb
  exact e

theorem lda (o : ReadArg) : Statement (.lda o) := ofRead_length _ o
theorem ldx (o : ReadArg) : Statement (.ldx o) := ofRead_length _ o
theorem ldy (o : ReadArg) : Statement (.ldy o) := ofRead_length _ o
theorem sta (m : MemArg) : Statement (.sta m) := ofMem_length _ m
theorem stx (m : MemArg) : Statement (.stx m) := ofMem_length _ m
theorem sty (m : MemArg) : Statement (.sty m) := ofMem_length _ m
theorem stz (m : MemArg) : Statement (.stz m) := ofMem_length _ m
theorem tax : Statement .tax := of_bytes rfl rfl
theorem tay : Statement .tay := of_bytes rfl rfl
theorem tsx : Statement .tsx := of_bytes rfl rfl
theorem txa : Statement .txa := of_bytes rfl rfl
theorem txs : Statement .txs := of_bytes rfl rfl
theorem tya : Statement .tya := of_bytes rfl rfl
theorem pha : Statement .pha := of_bytes rfl rfl
theorem php : Statement .php := of_bytes rfl rfl
theorem phx : Statement .phx := of_bytes rfl rfl
theorem phy : Statement .phy := of_bytes rfl rfl
theorem pla : Statement .pla := of_bytes rfl rfl
theorem plp : Statement .plp := of_bytes rfl rfl
theorem plx : Statement .plx := of_bytes rfl rfl
theorem ply : Statement .ply := of_bytes rfl rfl
theorem asl (o : ModArg) : Statement (.asl o) := ofMod_length _ o
theorem lsr (o : ModArg) : Statement (.lsr o) := ofMod_length _ o
theorem rol (o : ModArg) : Statement (.rol o) := ofMod_length _ o
theorem ror (o : ModArg) : Statement (.ror o) := ofMod_length _ o
theorem and (o : ReadArg) : Statement (.and o) := ofRead_length _ o
theorem bit (o : ReadArg) : Statement (.bit o) := ofRead_length _ o
theorem eor (o : ReadArg) : Statement (.eor o) := ofRead_length _ o
theorem ora (o : ReadArg) : Statement (.ora o) := ofRead_length _ o
theorem trb (m : MemArg) : Statement (.trb m) := ofMem_length _ m
theorem tsb (m : MemArg) : Statement (.tsb m) := ofMem_length _ m
theorem nop : Statement .nop := of_bytes rfl rfl
theorem rmb0 (z : Byte) : Statement (.rmb0 z) := of_bytes rfl rfl
theorem rmb1 (z : Byte) : Statement (.rmb1 z) := of_bytes rfl rfl
theorem rmb2 (z : Byte) : Statement (.rmb2 z) := of_bytes rfl rfl
theorem rmb3 (z : Byte) : Statement (.rmb3 z) := of_bytes rfl rfl
theorem rmb4 (z : Byte) : Statement (.rmb4 z) := of_bytes rfl rfl
theorem rmb5 (z : Byte) : Statement (.rmb5 z) := of_bytes rfl rfl
theorem rmb6 (z : Byte) : Statement (.rmb6 z) := of_bytes rfl rfl
theorem rmb7 (z : Byte) : Statement (.rmb7 z) := of_bytes rfl rfl
theorem smb0 (z : Byte) : Statement (.smb0 z) := of_bytes rfl rfl
theorem smb1 (z : Byte) : Statement (.smb1 z) := of_bytes rfl rfl
theorem smb2 (z : Byte) : Statement (.smb2 z) := of_bytes rfl rfl
theorem smb3 (z : Byte) : Statement (.smb3 z) := of_bytes rfl rfl
theorem smb4 (z : Byte) : Statement (.smb4 z) := of_bytes rfl rfl
theorem smb5 (z : Byte) : Statement (.smb5 z) := of_bytes rfl rfl
theorem smb6 (z : Byte) : Statement (.smb6 z) := of_bytes rfl rfl
theorem smb7 (z : Byte) : Statement (.smb7 z) := of_bytes rfl rfl
theorem adc (o : ReadArg) : Statement (.adc o) := ofRead_length _ o
theorem sbc (o : ReadArg) : Statement (.sbc o) := ofRead_length _ o
theorem cmp (o : ReadArg) : Statement (.cmp o) := ofRead_length _ o
theorem cpx (o : ReadArg) : Statement (.cpx o) := ofRead_length _ o
theorem cpy (o : ReadArg) : Statement (.cpy o) := ofRead_length _ o
theorem inc (o : ModArg) : Statement (.inc o) := ofMod_length _ o
theorem inx : Statement .inx := of_bytes rfl rfl
theorem iny : Statement .iny := of_bytes rfl rfl
theorem dec (o : ModArg) : Statement (.dec o) := ofMod_length _ o
theorem dex : Statement .dex := of_bytes rfl rfl
theorem dey : Statement .dey := of_bytes rfl rfl
theorem bcc (d : Byte) : Statement (.bcc d) := of_bytes rfl rfl
theorem bcs (d : Byte) : Statement (.bcs d) := of_bytes rfl rfl
theorem beq (d : Byte) : Statement (.beq d) := of_bytes rfl rfl
theorem bmi (d : Byte) : Statement (.bmi d) := of_bytes rfl rfl
theorem bne (d : Byte) : Statement (.bne d) := of_bytes rfl rfl
theorem bpl (d : Byte) : Statement (.bpl d) := of_bytes rfl rfl
theorem bvc (d : Byte) : Statement (.bvc d) := of_bytes rfl rfl
theorem bvs (d : Byte) : Statement (.bvs d) := of_bytes rfl rfl
theorem bbr0 (z d : Byte) : Statement (.bbr0 z d) := of_bytes rfl rfl
theorem bbr1 (z d : Byte) : Statement (.bbr1 z d) := of_bytes rfl rfl
theorem bbr2 (z d : Byte) : Statement (.bbr2 z d) := of_bytes rfl rfl
theorem bbr3 (z d : Byte) : Statement (.bbr3 z d) := of_bytes rfl rfl
theorem bbr4 (z d : Byte) : Statement (.bbr4 z d) := of_bytes rfl rfl
theorem bbr5 (z d : Byte) : Statement (.bbr5 z d) := of_bytes rfl rfl
theorem bbr6 (z d : Byte) : Statement (.bbr6 z d) := of_bytes rfl rfl
theorem bbr7 (z d : Byte) : Statement (.bbr7 z d) := of_bytes rfl rfl
theorem bbs0 (z d : Byte) : Statement (.bbs0 z d) := of_bytes rfl rfl
theorem bbs1 (z d : Byte) : Statement (.bbs1 z d) := of_bytes rfl rfl
theorem bbs2 (z d : Byte) : Statement (.bbs2 z d) := of_bytes rfl rfl
theorem bbs3 (z d : Byte) : Statement (.bbs3 z d) := of_bytes rfl rfl
theorem bbs4 (z d : Byte) : Statement (.bbs4 z d) := of_bytes rfl rfl
theorem bbs5 (z d : Byte) : Statement (.bbs5 z d) := of_bytes rfl rfl
theorem bbs6 (z d : Byte) : Statement (.bbs6 z d) := of_bytes rfl rfl
theorem bbs7 (z d : Byte) : Statement (.bbs7 z d) := of_bytes rfl rfl
theorem bra (d : Byte) : Statement (.bra d) := of_bytes rfl rfl
theorem jmp (t : JumpArg) : Statement (.jmp t) := by
  cases t <;> exact of_bytes rfl rfl
theorem jsr (w : Word) : Statement (.jsr w) := of_bytes rfl rfl
theorem rti : Statement .rti := of_bytes rfl rfl
theorem rts : Statement .rts := of_bytes rfl rfl
theorem brk : Statement .brk := of_bytes rfl rfl
theorem stp : Statement .stp := of_bytes rfl rfl
theorem wai : Statement .wai := of_bytes rfl rfl
theorem clc : Statement .clc := of_bytes rfl rfl
theorem cld : Statement .cld := of_bytes rfl rfl
theorem cli : Statement .cli := of_bytes rfl rfl
theorem clv : Statement .clv := of_bytes rfl rfl
theorem sec : Statement .sec := of_bytes rfl rfl
theorem sed : Statement .sed := of_bytes rfl rfl
theorem sei : Statement .sei := of_bytes rfl rfl
theorem reserved (op : Byte) (skipped : List Byte) : Statement (.reserved op skipped) := by
  intro bs h
  simp only [encode] at h
  split at h
  · cases h; simp [Instr.length, Nat.add_comm]
  · cases h

end Sys2Proof.Laws.EncodedLength
end

