-- ==== Sys2Proof/Machine/Assembly.lean ====
section
/-! DEFINITION. The source's way to write an instruction as text: operand syntax (30_encoding.md R92), bit-numbered mnemonics (R93)
and the accumulator form without an operand (R94). No byte of memory holds this text and no step reads it. -/

namespace Sys2Proof.Machine

/-- A hexadecimal digit in capitals (R92). -/
def hexDigit (n : BitVec 4) : Char := Char.ofNat (if n.toNat < 10 then 48 + n.toNat else 55 + n.toNat)

/-- A byte after `$`, two digits (R92). -/
def hexByte (b : Byte) : String := String.ofList [hexDigit (b.extractLsb' 4 4), hexDigit (b.extractLsb' 0 4)]

/-- A zero-page address or an 8-bit constant: `$nn` (R92). -/
def dollarByte (b : Byte) : String := "$" ++ hexByte b

/-- A 16-bit address: `$nnnn` (R92). -/
def dollarWord (w : Word) : String := "$" ++ hexByte (w.extractLsb' 8 8) ++ hexByte (w.extractLsb' 0 8)

/-- The text of a memory operand (R92). -/
def memText : MemArg → String
  | .zp z => dollarByte z
  | .zpX z => dollarByte z ++ ",X"
  | .zpY z => dollarByte z ++ ",Y"
  | .abs w => dollarWord w
  | .absX w => dollarWord w ++ ",X"
  | .absY w => dollarWord w ++ ",Y"
  | .indX z => "(" ++ dollarByte z ++ ",X)"
  | .indY z => "(" ++ dollarByte z ++ "),Y"
  | .zpInd z => "(" ++ dollarByte z ++ ")"

/-- The text of a read operand (R92). -/
def readText (mnemonic : String) : ReadArg → String
  | .imm v => mnemonic ++ " #" ++ dollarByte v
  | .mem m => mnemonic ++ " " ++ memText m

/-- The text of a read-modify-write instruction: the accumulator form has no operand (R94). -/
def modText (mnemonic : String) : ModArg → String
  | .acc => mnemonic
  | .mem m => mnemonic ++ " " ++ memText m

/-- The text of JMP (R92). -/
def jumpText : JumpArg → String
  | .abs w => "JMP " ++ dollarWord w
  | .ind w => "JMP (" ++ dollarWord w ++ ")"
  | .absX w => "JMP (" ++ dollarWord w ++ ",X)"

/-- The text of a branch: its label is the address it goes to, `next` being the address after the instruction (R68). -/
def relText (mnemonic : String) (next : Word) (d : Byte) : String :=
  mnemonic ++ " " ++ dollarWord (next + d.signExtend 16)

/-- The text of BBRn and BBSn: the zero-page address and the label (R69, R92). -/
def bitBranchText (mnemonic : String) (next : Word) (z d : Byte) : String :=
  mnemonic ++ " " ++ dollarByte z ++ "," ++ dollarWord (next + d.signExtend 16)

/-- An instruction as the source writes it, `next` being the address of the instruction after it (R92, R93, R94). The 44 reserved
bytes spell no instruction (R90): none. -/
def instrText (next : Word) : Instr → Option String
  | .lda o => some (readText "LDA" o)
  | .ldx o => some (readText "LDX" o)
  | .ldy o => some (readText "LDY" o)
  | .sta m => some ("STA " ++ memText m)
  | .stx m => some ("STX " ++ memText m)
  | .sty m => some ("STY " ++ memText m)
  | .stz m => some ("STZ " ++ memText m)
  | .tax => some "TAX"
  | .tay => some "TAY"
  | .tsx => some "TSX"
  | .txa => some "TXA"
  | .txs => some "TXS"
  | .tya => some "TYA"
  | .pha => some "PHA"
  | .php => some "PHP"
  | .phx => some "PHX"
  | .phy => some "PHY"
  | .pla => some "PLA"
  | .plp => some "PLP"
  | .plx => some "PLX"
  | .ply => some "PLY"
  | .asl o => some (modText "ASL" o)
  | .lsr o => some (modText "LSR" o)
  | .rol o => some (modText "ROL" o)
  | .ror o => some (modText "ROR" o)
  | .and o => some (readText "AND" o)
  | .bit o => some (readText "BIT" o)
  | .eor o => some (readText "EOR" o)
  | .ora o => some (readText "ORA" o)
  | .trb m => some ("TRB " ++ memText m)
  | .tsb m => some ("TSB " ++ memText m)
  | .nop => some "NOP"
  | .rmb0 z => some ("RMB0 " ++ dollarByte z)
  | .rmb1 z => some ("RMB1 " ++ dollarByte z)
  | .rmb2 z => some ("RMB2 " ++ dollarByte z)
  | .rmb3 z => some ("RMB3 " ++ dollarByte z)
  | .rmb4 z => some ("RMB4 " ++ dollarByte z)
  | .rmb5 z => some ("RMB5 " ++ dollarByte z)
  | .rmb6 z => some ("RMB6 " ++ dollarByte z)
  | .rmb7 z => some ("RMB7 " ++ dollarByte z)
  | .smb0 z => some ("SMB0 " ++ dollarByte z)
  | .smb1 z => some ("SMB1 " ++ dollarByte z)
  | .smb2 z => some ("SMB2 " ++ dollarByte z)
  | .smb3 z => some ("SMB3 " ++ dollarByte z)
  | .smb4 z => some ("SMB4 " ++ dollarByte z)
  | .smb5 z => some ("SMB5 " ++ dollarByte z)
  | .smb6 z => some ("SMB6 " ++ dollarByte z)
  | .smb7 z => some ("SMB7 " ++ dollarByte z)
  | .adc o => some (readText "ADC" o)
  | .sbc o => some (readText "SBC" o)
  | .cmp o => some (readText "CMP" o)
  | .cpx o => some (readText "CPX" o)
  | .cpy o => some (readText "CPY" o)
  | .inc o => some (modText "INC" o)
  | .dec o => some (modText "DEC" o)
  | .inx => some "INX"
  | .iny => some "INY"
  | .dex => some "DEX"
  | .dey => some "DEY"
  | .bcc d => some (relText "BCC" next d)
  | .bcs d => some (relText "BCS" next d)
  | .beq d => some (relText "BEQ" next d)
  | .bmi d => some (relText "BMI" next d)
  | .bne d => some (relText "BNE" next d)
  | .bpl d => some (relText "BPL" next d)
  | .bvc d => some (relText "BVC" next d)
  | .bvs d => some (relText "BVS" next d)
  | .bbr0 z d => some (bitBranchText "BBR0" next z d)
  | .bbr1 z d => some (bitBranchText "BBR1" next z d)
  | .bbr2 z d => some (bitBranchText "BBR2" next z d)
  | .bbr3 z d => some (bitBranchText "BBR3" next z d)
  | .bbr4 z d => some (bitBranchText "BBR4" next z d)
  | .bbr5 z d => some (bitBranchText "BBR5" next z d)
  | .bbr6 z d => some (bitBranchText "BBR6" next z d)
  | .bbr7 z d => some (bitBranchText "BBR7" next z d)
  | .bbs0 z d => some (bitBranchText "BBS0" next z d)
  | .bbs1 z d => some (bitBranchText "BBS1" next z d)
  | .bbs2 z d => some (bitBranchText "BBS2" next z d)
  | .bbs3 z d => some (bitBranchText "BBS3" next z d)
  | .bbs4 z d => some (bitBranchText "BBS4" next z d)
  | .bbs5 z d => some (bitBranchText "BBS5" next z d)
  | .bbs6 z d => some (bitBranchText "BBS6" next z d)
  | .bbs7 z d => some (bitBranchText "BBS7" next z d)
  | .bra d => some (relText "BRA" next d)
  | .jmp t => some (jumpText t)
  | .jsr w => some ("JSR " ++ dollarWord w)
  | .rti => some "RTI"
  | .rts => some "RTS"
  | .brk => some "BRK"
  | .stp => some "STP"
  | .wai => some "WAI"
  | .clc => some "CLC"
  | .cld => some "CLD"
  | .cli => some "CLI"
  | .clv => some "CLV"
  | .sec => some "SEC"
  | .sed => some "SED"
  | .sei => some "SEI"
  | .reserved _ _ => none

end Sys2Proof.Machine
end

