-- ==== Sys2Proof/Machine/Cycles.lean ====
section
/-! DEFINITION. The two cycle tables (70_reset_and_hazards.md R268, R269) as cost functions beside the machine. Timing is not
normative (D18): no meaning and no field of State depends on this file (log 16). -/

namespace Sys2Proof.Machine

/-! ## The part's cycles (R269) -/

/-- A cell of R269: a base count, `+p` and `+t`. -/
structure Cost where
  base : Nat
  /-- `+p`: one more if the indexed address, or the taken branch's target, is in another page -/
  page : Bool := false
  /-- `+t`: one more if the branch is taken -/
  taken : Bool := false
deriving DecidableEq, Repr

/-- Loads, compares, logic and arithmetic by memory mode. -/
def readCost : MemArg → Cost
  | .zp _ => { base := 3 }
  | .zpX _ => { base := 4 }
  | .zpY _ => { base := 4 }
  | .abs _ => { base := 4 }
  | .absX _ => { base := 4, page := true }
  | .absY _ => { base := 4, page := true }
  | .indX _ => { base := 6 }
  | .indY _ => { base := 5, page := true }
  | .zpInd _ => { base := 5 }

/-- Loads, compares, logic and arithmetic. -/
def operandCost : ReadArg → Cost
  | .imm _ => { base := 2 }
  | .mem m => readCost m

/-- Stores by mode. -/
def storeCost : MemArg → Cost
  | .zp _ => { base := 3 }
  | .zpX _ => { base := 4 }
  | .zpY _ => { base := 4 }
  | .abs _ => { base := 4 }
  | .absX _ => { base := 5 }
  | .absY _ => { base := 5 }
  | .indX _ => { base := 6 }
  | .indY _ => { base := 6 }
  | .zpInd _ => { base := 5 }

/-- Read-modify-write by mode; `indexed` is the cell of Absolute,X (6+p for the shifts, 7 for INC and DEC). A mode that no such
instruction has is given the cost of the one it is nearest to. -/
def modifyCost (indexed : Cost) : ModArg → Cost
  | .acc => { base := 2 }
  | .mem (.zp _) => { base := 5 }
  | .mem (.zpX _) => { base := 6 }
  | .mem (.zpY _) => { base := 6 }
  | .mem (.absX _) => indexed
  | .mem _ => { base := 6 }

/-- The reserved bytes (30_encoding.md R90). -/
def reservedCost (op : Byte) : Cost :=
  if op = 0x5C#8 then { base := 8 }
  else if op = 0x44#8 then { base := 3 }
  else if op ∈ [0x54#8, 0xD4#8, 0xF4#8, 0xDC#8, 0xFC#8] then { base := 4 }
  else if op ∈ reservedTwo then { base := 2 }
  else { base := 1 }

/-- The cell of R269 for an instruction. -/
def partCost : Instr → Cost
  | .lda o | .ldx o | .ldy o | .and o | .bit o | .eor o | .ora o | .adc o | .sbc o | .cmp o | .cpx o | .cpy o => operandCost o
  | .sta m | .stx m | .sty m | .stz m => storeCost m
  | .trb m | .tsb m => modifyCost { base := 7 } (.mem m)
  | .asl o | .lsr o | .rol o | .ror o => modifyCost { base := 6, page := true } o
  | .inc o | .dec o => modifyCost { base := 7 } o
  | .tax | .tay | .tsx | .txa | .txs | .tya | .nop | .inx | .iny | .dex | .dey
  | .clc | .cld | .cli | .clv | .sec | .sed | .sei => { base := 2 }
  | .pha | .php | .phx | .phy => { base := 3 }
  | .pla | .plp | .plx | .ply => { base := 4 }
  | .rmb0 _ | .rmb1 _ | .rmb2 _ | .rmb3 _ | .rmb4 _ | .rmb5 _ | .rmb6 _ | .rmb7 _
  | .smb0 _ | .smb1 _ | .smb2 _ | .smb3 _ | .smb4 _ | .smb5 _ | .smb6 _ | .smb7 _ => { base := 5 }
  | .bcc _ | .bcs _ | .beq _ | .bmi _ | .bne _ | .bpl _ | .bvc _ | .bvs _ => { base := 2, page := true, taken := true }
  | .bbr0 _ _ | .bbr1 _ _ | .bbr2 _ _ | .bbr3 _ _ | .bbr4 _ _ | .bbr5 _ _ | .bbr6 _ _ | .bbr7 _ _
  | .bbs0 _ _ | .bbs1 _ _ | .bbs2 _ _ | .bbs3 _ _ | .bbs4 _ _ | .bbs5 _ _ | .bbs6 _ _ | .bbs7 _ _ =>
    { base := 5, page := true, taken := true }
  | .bra _ => { base := 3, page := true }
  | .jmp (.abs _) => { base := 3 }
  | .jmp _ => { base := 6 }
  | .jsr _ | .rti | .rts => { base := 6 }
  | .brk => { base := 7 }
  | .stp | .wai => { base := 3 }
  | .reserved op _ => reservedCost op

/-- The cycles of an interrupt entry and of the reset sequence (R269). -/
def entryCycles : Nat := 7

/-- Two addresses are in different pages (00_scope.md section 8). -/
def otherPage (a b : Word) : Bool := hiByte a != hiByte b

/-- The indexed address of a memory operand is in another page than its base. -/
def crossesPage (m : MemArg) (s : State) : Bool :=
  match m with
  | .absX w => otherPage w (w + zext16 s.x)
  | .absY w => otherPage w (w + zext16 s.y)
  | .indY z => otherPage (read16zp z s).1 ((read16zp z s).1 + zext16 s.y)
  | _ => false

/-- The displacement of a branch that is taken on this state, none where it is not taken or the instruction is no branch. -/
def takenBranch (i : Instr) (s : State) : Option Byte :=
  let when (c : Bool) (d : Byte) : Option Byte := if c then some d else none
  let bit (n : Nat) (want : Bool) (z d : Byte) : Option Byte := when (bitOf (busRead (zext16 z) s).1 n == want) d
  match i with
  | .bcc d => when (!s.p.c) d | .bcs d => when s.p.c d
  | .bne d => when (!s.p.z) d | .beq d => when s.p.z d
  | .bpl d => when (!s.p.n) d | .bmi d => when s.p.n d
  | .bvc d => when (!s.p.v) d | .bvs d => when s.p.v d
  | .bra d => some d
  | .bbr0 z d => bit 0 false z d | .bbr1 z d => bit 1 false z d | .bbr2 z d => bit 2 false z d | .bbr3 z d => bit 3 false z d
  | .bbr4 z d => bit 4 false z d | .bbr5 z d => bit 5 false z d | .bbr6 z d => bit 6 false z d | .bbr7 z d => bit 7 false z d
  | .bbs0 z d => bit 0 true z d | .bbs1 z d => bit 1 true z d | .bbs2 z d => bit 2 true z d | .bbs3 z d => bit 3 true z d
  | .bbs4 z d => bit 4 true z d | .bbs5 z d => bit 5 true z d | .bbs6 z d => bit 6 true z d | .bbs7 z d => bit 7 true z d
  | _ => none

/-- The memory operand of an instruction that has one. -/
def memOperand : Instr → Option MemArg
  | .lda (.mem m) | .ldx (.mem m) | .ldy (.mem m) | .and (.mem m) | .bit (.mem m) | .eor (.mem m) | .ora (.mem m)
  | .adc (.mem m) | .sbc (.mem m) | .cmp (.mem m) | .cpx (.mem m) | .cpy (.mem m) => some m
  | .sta m | .stx m | .sty m | .stz m | .trb m | .tsb m => some m
  | .asl (.mem m) | .lsr (.mem m) | .rol (.mem m) | .ror (.mem m) | .inc (.mem m) | .dec (.mem m) => some m
  | _ => none

/-- The instruction is ADC or SBC: one more cycle when P.D = 1 (R269). -/
def isDecimal : Instr → Bool
  | .adc _ | .sbc _ => true
  | _ => false

/-- The part's cycles for an instruction on a state whose PC is already the address of the next instruction (R269). -/
def partCycles (i : Instr) (s : State) : Nat :=
  let cost := partCost i
  let taken := takenBranch i s
  let crossed := (match memOperand i with | some m => crossesPage m s | none => false) ||
    (match taken with | some d => otherPage s.pc (s.pc + sext16 d) | none => false)
  cost.base + (cost.page && crossed).toNat + (cost.taken && taken.isSome).toNat + (isDecimal i && s.p.d).toNat

/-! ## The source's Cycles cells (R268) -/

/-- A Cycles cell as the source prints it: one number or a range, and the footnote. -/
structure SourceCell where
  least : Nat
  most : Nat
  /-- 1: "Add 1 cycle if a page boundary is crossed"; 2: "Add 1 cycle if branch is taken on the same page, or 2 …" -/
  footnote : Option Nat
deriving DecidableEq, Repr

/-- A cell that holds one number. -/
def printed (n : Nat) (footnote : Option Nat := none) : Option SourceCell := some { least := n, most := n, footnote := footnote }

/-- The cells of ADC AND CMP EOR LDA ORA and of the modes the other readers share with them; the source has no Zero Page
Indirect (30_encoding.md R72). -/
def sourceRead : ReadArg → Option SourceCell
  | .imm _ => printed 2
  | .mem (.zp _) => printed 3
  | .mem (.zpX _) | .mem (.zpY _) | .mem (.abs _) => printed 4
  | .mem (.absX _) | .mem (.absY _) => printed 4 (some 1)
  | .mem (.indX _) => printed 6
  | .mem (.indY _) => printed 5 (some 1)
  | .mem (.zpInd _) => none

/-- The cells of the memory modes of ASL LSR INC DEC. -/
def sourceModify : MemArg → Option SourceCell
  | .zp _ => printed 5
  | .zpX _ | .abs _ => printed 6
  | .absX _ => printed 7
  | _ => none

/-- The source's cell for an instruction, none where the source has no row for its mnemonic and mode (R268, R72). -/
def sourceCell : Instr → Option SourceCell
  | .lda o | .ldx o | .ldy o | .and o | .eor o | .ora o | .adc o | .cmp o | .cpx o | .cpy o => sourceRead o
  | .bit (.mem (.zp _)) => printed 3
  | .bit (.mem (.abs _)) => printed 4
  | .asl .acc | .lsr .acc => printed 2
  | .asl (.mem m) | .lsr (.mem m) | .inc (.mem m) | .dec (.mem m) => sourceModify m
  | .inx | .iny | .dex | .dey | .nop | .clc | .cld | .cli | .clv => printed 2
  | .pha | .php | .phx | .phy => printed 3
  | .pla | .plp | .plx | .ply => printed 4
  | .bcc _ | .bcs _ | .beq _ | .bmi _ | .bne _ | .bpl _ | .bvc _ | .bvs _ => some { least := 2, most := 4, footnote := some 2 }
  | .bbr0 _ _ | .bbr1 _ _ | .bbr2 _ _ | .bbr3 _ _ | .bbr4 _ _ | .bbr5 _ _ | .bbr6 _ _ | .bbr7 _ _ =>
    some { least := 3, most := 5, footnote := some 2 }
  | .bbs0 _ _ | .bbs1 _ _ | .bbs2 _ _ | .bbs3 _ _ | .bbs4 _ _ | .bbs5 _ _ | .bbs6 _ _ | .bbs7 _ _ => printed 5 (some 2)
  | .bra _ => some { least := 3, most := 4, footnote := some 1 }
  | .jmp (.abs _) => printed 4
  | .jmp (.ind _) => printed 5
  | .jmp (.absX _) => printed 6
  | .jsr _ => printed 6
  | .brk => printed 7
  | _ => none

end Sys2Proof.Machine
end

