-- ==== Sys2Proof/Tests/Slice0.lean ====
section
/-! SUPPORT. Tests: what WellFormed refuses; a word of every opcode byte, written out from 30_encoding.md R71 and R90; one step of each
instruction, from the vectors of 95_test_vectors.md; the interrupt scenarios of its Part 4; and a witness for the hypotheses of
every statement that has some. -/

namespace Sys2Proof.Tests

set_option maxRecDepth 8000
set_option Elab.async false

open Sys2Proof Sys2Proof.Machine

/-! ## WellFormed refuses -/

theorem test_wf_refuses_lda_zeroPageY : Instr.wf (.lda (.mem (.zpY 0x44#8))) = false := by decide
theorem test_wf_refuses_ldx_zeroPageX : Instr.wf (.ldx (.mem (.zpX 0x44#8))) = false := by decide
theorem test_wf_refuses_ldx_absoluteX : Instr.wf (.ldx (.mem (.absX 0x4400#16))) = false := by decide
theorem test_wf_refuses_ldy_zeroPageY : Instr.wf (.ldy (.mem (.zpY 0x44#8))) = false := by decide
theorem test_wf_refuses_ldy_indirect : Instr.wf (.ldy (.mem (.zpInd 0x44#8))) = false := by decide
theorem test_wf_refuses_sta_zeroPageY : Instr.wf (.sta (.zpY 0x44#8)) = false := by decide
theorem test_wf_refuses_stx_absoluteY : Instr.wf (.stx (.absY 0x4400#16)) = false := by decide
theorem test_wf_refuses_sty_absoluteX : Instr.wf (.sty (.absX 0x4400#16)) = false := by decide
theorem test_wf_refuses_stz_absoluteY : Instr.wf (.stz (.absY 0x4400#16)) = false := by decide
theorem test_wf_refuses_asl_absoluteY : Instr.wf (.asl (.mem (.absY 0x4400#16))) = false := by decide
theorem test_wf_refuses_inc_indirectX : Instr.wf (.inc (.mem (.indX 0x44#8))) = false := by decide
theorem test_wf_refuses_bit_indirectY : Instr.wf (.bit (.mem (.indY 0x44#8))) = false := by decide
theorem test_wf_refuses_trb_zeroPageX : Instr.wf (.trb (.zpX 0x44#8)) = false := by decide
theorem test_wf_refuses_tsb_absoluteX : Instr.wf (.tsb (.absX 0x4400#16)) = false := by decide
theorem test_wf_refuses_cpx_absoluteX : Instr.wf (.cpx (.mem (.absX 0x4400#16))) = false := by decide
theorem test_wf_refuses_cpy_zeroPageX : Instr.wf (.cpy (.mem (.zpX 0x44#8))) = false := by decide
theorem test_wf_refuses_adc_zeroPageY : Instr.wf (.adc (.mem (.zpY 0x44#8))) = false := by decide
theorem test_wf_refuses_reserved_of_a_defined_byte : Instr.wf (.reserved 0xEA#8 []) = false := by decide
theorem test_wf_refuses_reserved_wai : Instr.wf (.reserved 0xCB#8 []) = false := by decide
theorem test_wf_refuses_reserved_too_short : Instr.wf (.reserved 0x44#8 []) = false := by decide
theorem test_wf_refuses_reserved_too_long : Instr.wf (.reserved 0x5C#8 [0x00#8, 0x00#8, 0x00#8]) = false := by decide

/-! ## Decoding: the bytes of R71 and R90 -/

/-- Every row's bytes decode to the row's instruction with the byte $EA left over, and its encoding is the bytes. -/
def words (l : List (List Byte × Instr)) : Bool :=
  l.all fun r => (match decode (r.1 ++ [0xEA#8]) with
    | .ok (i, rest) => decide (i = r.2 ∧ rest = [0xEA#8])
    | .error _ => false) && decide (encode r.2 = some r.1)

theorem test_decode_load_store_1 : words [
    ([0xA9#8, 0x44#8], .lda (.imm 0x44#8)), ([0xA5#8, 0x44#8], .lda (.mem (.zp 0x44#8))), ([0xB5#8, 0x44#8], .lda (.mem (.zpX 0x44#8))),
    ([0xAD#8, 0x00#8, 0x44#8], .lda (.mem (.abs 0x4400#16))), ([0xBD#8, 0x00#8, 0x44#8], .lda (.mem (.absX 0x4400#16))), ([0xB9#8, 0x00#8, 0x44#8], .lda (.mem (.absY 0x4400#16))),
    ([0xA1#8, 0x44#8], .lda (.mem (.indX 0x44#8))), ([0xB1#8, 0x44#8], .lda (.mem (.indY 0x44#8))), ([0xB2#8, 0x44#8], .lda (.mem (.zpInd 0x44#8))),
    ([0xA2#8, 0x44#8], .ldx (.imm 0x44#8)), ([0xA6#8, 0x44#8], .ldx (.mem (.zp 0x44#8))), ([0xB6#8, 0x44#8], .ldx (.mem (.zpY 0x44#8))),
    ([0xAE#8, 0x00#8, 0x44#8], .ldx (.mem (.abs 0x4400#16))), ([0xBE#8, 0x00#8, 0x44#8], .ldx (.mem (.absY 0x4400#16))), ([0xA0#8, 0x44#8], .ldy (.imm 0x44#8)),
    ([0xA4#8, 0x44#8], .ldy (.mem (.zp 0x44#8))), ([0xB4#8, 0x44#8], .ldy (.mem (.zpX 0x44#8))), ([0xAC#8, 0x00#8, 0x44#8], .ldy (.mem (.abs 0x4400#16))),
    ([0xBC#8, 0x00#8, 0x44#8], .ldy (.mem (.absX 0x4400#16))), ([0x85#8, 0x44#8], .sta (.zp 0x44#8)), ([0x95#8, 0x44#8], .sta (.zpX 0x44#8)),
    ([0x8D#8, 0x00#8, 0x44#8], .sta (.abs 0x4400#16))] = true := by decide +kernel

theorem test_decode_load_store_2 : words [
    ([0x9D#8, 0x00#8, 0x44#8], .sta (.absX 0x4400#16)), ([0x99#8, 0x00#8, 0x44#8], .sta (.absY 0x4400#16)), ([0x81#8, 0x44#8], .sta (.indX 0x44#8)),
    ([0x91#8, 0x44#8], .sta (.indY 0x44#8)), ([0x92#8, 0x44#8], .sta (.zpInd 0x44#8)), ([0x86#8, 0x44#8], .stx (.zp 0x44#8)),
    ([0x96#8, 0x44#8], .stx (.zpY 0x44#8)), ([0x8E#8, 0x00#8, 0x44#8], .stx (.abs 0x4400#16)), ([0x84#8, 0x44#8], .sty (.zp 0x44#8)),
    ([0x94#8, 0x44#8], .sty (.zpX 0x44#8)), ([0x8C#8, 0x00#8, 0x44#8], .sty (.abs 0x4400#16)), ([0x64#8, 0x44#8], .stz (.zp 0x44#8)),
    ([0x74#8, 0x44#8], .stz (.zpX 0x44#8)), ([0x9C#8, 0x00#8, 0x44#8], .stz (.abs 0x4400#16)), ([0x9E#8, 0x00#8, 0x44#8], .stz (.absX 0x4400#16))] = true := by decide +kernel

theorem test_decode_transfer : words [
    ([0xAA#8], .tax), ([0xA8#8], .tay), ([0xBA#8], .tsx),
    ([0x8A#8], .txa), ([0x9A#8], .txs), ([0x98#8], .tya)] = true := by decide +kernel

theorem test_decode_stack : words [
    ([0x48#8], .pha), ([0x08#8], .php), ([0xDA#8], .phx),
    ([0x5A#8], .phy), ([0x68#8], .pla), ([0x28#8], .plp),
    ([0xFA#8], .plx), ([0x7A#8], .ply)] = true := by decide +kernel

theorem test_decode_logic_1 : words [
    ([0x29#8, 0x44#8], .and (.imm 0x44#8)), ([0x25#8, 0x44#8], .and (.mem (.zp 0x44#8))), ([0x35#8, 0x44#8], .and (.mem (.zpX 0x44#8))),
    ([0x2D#8, 0x00#8, 0x44#8], .and (.mem (.abs 0x4400#16))), ([0x3D#8, 0x00#8, 0x44#8], .and (.mem (.absX 0x4400#16))), ([0x39#8, 0x00#8, 0x44#8], .and (.mem (.absY 0x4400#16))),
    ([0x21#8, 0x44#8], .and (.mem (.indX 0x44#8))), ([0x31#8, 0x44#8], .and (.mem (.indY 0x44#8))), ([0x32#8, 0x44#8], .and (.mem (.zpInd 0x44#8))),
    ([0x0A#8], .asl .acc), ([0x06#8, 0x44#8], .asl (.mem (.zp 0x44#8))), ([0x16#8, 0x44#8], .asl (.mem (.zpX 0x44#8))),
    ([0x0E#8, 0x00#8, 0x44#8], .asl (.mem (.abs 0x4400#16))), ([0x1E#8, 0x00#8, 0x44#8], .asl (.mem (.absX 0x4400#16))), ([0x89#8, 0x44#8], .bit (.imm 0x44#8)),
    ([0x24#8, 0x44#8], .bit (.mem (.zp 0x44#8))), ([0x34#8, 0x44#8], .bit (.mem (.zpX 0x44#8))), ([0x2C#8, 0x00#8, 0x44#8], .bit (.mem (.abs 0x4400#16))),
    ([0x3C#8, 0x00#8, 0x44#8], .bit (.mem (.absX 0x4400#16))), ([0x49#8, 0x44#8], .eor (.imm 0x44#8)), ([0x45#8, 0x44#8], .eor (.mem (.zp 0x44#8))),
    ([0x55#8, 0x44#8], .eor (.mem (.zpX 0x44#8)))] = true := by decide +kernel

theorem test_decode_logic_2 : words [
    ([0x4D#8, 0x00#8, 0x44#8], .eor (.mem (.abs 0x4400#16))), ([0x5D#8, 0x00#8, 0x44#8], .eor (.mem (.absX 0x4400#16))), ([0x59#8, 0x00#8, 0x44#8], .eor (.mem (.absY 0x4400#16))),
    ([0x41#8, 0x44#8], .eor (.mem (.indX 0x44#8))), ([0x51#8, 0x44#8], .eor (.mem (.indY 0x44#8))), ([0x52#8, 0x44#8], .eor (.mem (.zpInd 0x44#8))),
    ([0x4A#8], .lsr .acc), ([0x46#8, 0x44#8], .lsr (.mem (.zp 0x44#8))), ([0x56#8, 0x44#8], .lsr (.mem (.zpX 0x44#8))),
    ([0x4E#8, 0x00#8, 0x44#8], .lsr (.mem (.abs 0x4400#16))), ([0x5E#8, 0x00#8, 0x44#8], .lsr (.mem (.absX 0x4400#16))), ([0xEA#8], .nop),
    ([0x09#8, 0x44#8], .ora (.imm 0x44#8)), ([0x05#8, 0x44#8], .ora (.mem (.zp 0x44#8))), ([0x15#8, 0x44#8], .ora (.mem (.zpX 0x44#8))),
    ([0x0D#8, 0x00#8, 0x44#8], .ora (.mem (.abs 0x4400#16))), ([0x1D#8, 0x00#8, 0x44#8], .ora (.mem (.absX 0x4400#16))), ([0x19#8, 0x00#8, 0x44#8], .ora (.mem (.absY 0x4400#16))),
    ([0x01#8, 0x44#8], .ora (.mem (.indX 0x44#8))), ([0x11#8, 0x44#8], .ora (.mem (.indY 0x44#8))), ([0x12#8, 0x44#8], .ora (.mem (.zpInd 0x44#8))),
    ([0x07#8, 0x44#8], .rmb0 0x44#8)] = true := by decide +kernel

theorem test_decode_logic_3 : words [
    ([0x17#8, 0x44#8], .rmb1 0x44#8), ([0x27#8, 0x44#8], .rmb2 0x44#8), ([0x37#8, 0x44#8], .rmb3 0x44#8),
    ([0x47#8, 0x44#8], .rmb4 0x44#8), ([0x57#8, 0x44#8], .rmb5 0x44#8), ([0x67#8, 0x44#8], .rmb6 0x44#8),
    ([0x77#8, 0x44#8], .rmb7 0x44#8), ([0x2A#8], .rol .acc), ([0x26#8, 0x44#8], .rol (.mem (.zp 0x44#8))),
    ([0x36#8, 0x44#8], .rol (.mem (.zpX 0x44#8))), ([0x2E#8, 0x00#8, 0x44#8], .rol (.mem (.abs 0x4400#16))), ([0x3E#8, 0x00#8, 0x44#8], .rol (.mem (.absX 0x4400#16))),
    ([0x6A#8], .ror .acc), ([0x66#8, 0x44#8], .ror (.mem (.zp 0x44#8))), ([0x76#8, 0x44#8], .ror (.mem (.zpX 0x44#8))),
    ([0x6E#8, 0x00#8, 0x44#8], .ror (.mem (.abs 0x4400#16))), ([0x7E#8, 0x00#8, 0x44#8], .ror (.mem (.absX 0x4400#16))), ([0x87#8, 0x44#8], .smb0 0x44#8),
    ([0x97#8, 0x44#8], .smb1 0x44#8), ([0xA7#8, 0x44#8], .smb2 0x44#8), ([0xB7#8, 0x44#8], .smb3 0x44#8),
    ([0xC7#8, 0x44#8], .smb4 0x44#8)] = true := by decide +kernel

theorem test_decode_logic_4 : words [
    ([0xD7#8, 0x44#8], .smb5 0x44#8), ([0xE7#8, 0x44#8], .smb6 0x44#8), ([0xF7#8, 0x44#8], .smb7 0x44#8),
    ([0x14#8, 0x44#8], .trb (.zp 0x44#8)), ([0x1C#8, 0x00#8, 0x44#8], .trb (.abs 0x4400#16)), ([0x04#8, 0x44#8], .tsb (.zp 0x44#8)),
    ([0x0C#8, 0x00#8, 0x44#8], .tsb (.abs 0x4400#16))] = true := by decide +kernel

theorem test_decode_math_1 : words [
    ([0x69#8, 0x44#8], .adc (.imm 0x44#8)), ([0x65#8, 0x44#8], .adc (.mem (.zp 0x44#8))), ([0x75#8, 0x44#8], .adc (.mem (.zpX 0x44#8))),
    ([0x6D#8, 0x00#8, 0x44#8], .adc (.mem (.abs 0x4400#16))), ([0x7D#8, 0x00#8, 0x44#8], .adc (.mem (.absX 0x4400#16))), ([0x79#8, 0x00#8, 0x44#8], .adc (.mem (.absY 0x4400#16))),
    ([0x61#8, 0x44#8], .adc (.mem (.indX 0x44#8))), ([0x71#8, 0x44#8], .adc (.mem (.indY 0x44#8))), ([0x72#8, 0x44#8], .adc (.mem (.zpInd 0x44#8))),
    ([0xC9#8, 0x44#8], .cmp (.imm 0x44#8)), ([0xC5#8, 0x44#8], .cmp (.mem (.zp 0x44#8))), ([0xD5#8, 0x44#8], .cmp (.mem (.zpX 0x44#8))),
    ([0xCD#8, 0x00#8, 0x44#8], .cmp (.mem (.abs 0x4400#16))), ([0xDD#8, 0x00#8, 0x44#8], .cmp (.mem (.absX 0x4400#16))), ([0xD9#8, 0x00#8, 0x44#8], .cmp (.mem (.absY 0x4400#16))),
    ([0xC1#8, 0x44#8], .cmp (.mem (.indX 0x44#8))), ([0xD1#8, 0x44#8], .cmp (.mem (.indY 0x44#8))), ([0xD2#8, 0x44#8], .cmp (.mem (.zpInd 0x44#8))),
    ([0xE0#8, 0x44#8], .cpx (.imm 0x44#8)), ([0xE4#8, 0x44#8], .cpx (.mem (.zp 0x44#8))), ([0xEC#8, 0x00#8, 0x44#8], .cpx (.mem (.abs 0x4400#16))),
    ([0xC0#8, 0x44#8], .cpy (.imm 0x44#8))] = true := by decide +kernel

theorem test_decode_math_2 : words [
    ([0xC4#8, 0x44#8], .cpy (.mem (.zp 0x44#8))), ([0xCC#8, 0x00#8, 0x44#8], .cpy (.mem (.abs 0x4400#16))), ([0x3A#8], .dec .acc),
    ([0xC6#8, 0x44#8], .dec (.mem (.zp 0x44#8))), ([0xD6#8, 0x44#8], .dec (.mem (.zpX 0x44#8))), ([0xCE#8, 0x00#8, 0x44#8], .dec (.mem (.abs 0x4400#16))),
    ([0xDE#8, 0x00#8, 0x44#8], .dec (.mem (.absX 0x4400#16))), ([0xCA#8], .dex), ([0x88#8], .dey),
    ([0x1A#8], .inc .acc), ([0xE6#8, 0x44#8], .inc (.mem (.zp 0x44#8))), ([0xF6#8, 0x44#8], .inc (.mem (.zpX 0x44#8))),
    ([0xEE#8, 0x00#8, 0x44#8], .inc (.mem (.abs 0x4400#16))), ([0xFE#8, 0x00#8, 0x44#8], .inc (.mem (.absX 0x4400#16))), ([0xE8#8], .inx),
    ([0xC8#8], .iny), ([0xE9#8, 0x44#8], .sbc (.imm 0x44#8)), ([0xE5#8, 0x44#8], .sbc (.mem (.zp 0x44#8))),
    ([0xF5#8, 0x44#8], .sbc (.mem (.zpX 0x44#8))), ([0xED#8, 0x00#8, 0x44#8], .sbc (.mem (.abs 0x4400#16))), ([0xFD#8, 0x00#8, 0x44#8], .sbc (.mem (.absX 0x4400#16))),
    ([0xF9#8, 0x00#8, 0x44#8], .sbc (.mem (.absY 0x4400#16)))] = true := by decide +kernel

theorem test_decode_math_3 : words [
    ([0xE1#8, 0x44#8], .sbc (.mem (.indX 0x44#8))), ([0xF1#8, 0x44#8], .sbc (.mem (.indY 0x44#8))), ([0xF2#8, 0x44#8], .sbc (.mem (.zpInd 0x44#8)))] = true := by decide +kernel

theorem test_decode_branch_1 : words [
    ([0x0F#8, 0x44#8, 0x10#8], .bbr0 0x44#8 0x10#8), ([0x1F#8, 0x44#8, 0x10#8], .bbr1 0x44#8 0x10#8), ([0x2F#8, 0x44#8, 0x10#8], .bbr2 0x44#8 0x10#8),
    ([0x3F#8, 0x44#8, 0x10#8], .bbr3 0x44#8 0x10#8), ([0x4F#8, 0x44#8, 0x10#8], .bbr4 0x44#8 0x10#8), ([0x5F#8, 0x44#8, 0x10#8], .bbr5 0x44#8 0x10#8),
    ([0x6F#8, 0x44#8, 0x10#8], .bbr6 0x44#8 0x10#8), ([0x7F#8, 0x44#8, 0x10#8], .bbr7 0x44#8 0x10#8), ([0x8F#8, 0x44#8, 0x10#8], .bbs0 0x44#8 0x10#8),
    ([0x9F#8, 0x44#8, 0x10#8], .bbs1 0x44#8 0x10#8), ([0xAF#8, 0x44#8, 0x10#8], .bbs2 0x44#8 0x10#8), ([0xBF#8, 0x44#8, 0x10#8], .bbs3 0x44#8 0x10#8),
    ([0xCF#8, 0x44#8, 0x10#8], .bbs4 0x44#8 0x10#8), ([0xDF#8, 0x44#8, 0x10#8], .bbs5 0x44#8 0x10#8), ([0xEF#8, 0x44#8, 0x10#8], .bbs6 0x44#8 0x10#8),
    ([0xFF#8, 0x44#8, 0x10#8], .bbs7 0x44#8 0x10#8), ([0x90#8, 0xFE#8], .bcc 0xFE#8), ([0xB0#8, 0xFE#8], .bcs 0xFE#8),
    ([0xF0#8, 0xFE#8], .beq 0xFE#8), ([0x30#8, 0xFE#8], .bmi 0xFE#8), ([0xD0#8, 0xFE#8], .bne 0xFE#8),
    ([0x10#8, 0xFE#8], .bpl 0xFE#8)] = true := by decide +kernel

theorem test_decode_branch_2 : words [
    ([0x50#8, 0xFE#8], .bvc 0xFE#8), ([0x70#8, 0xFE#8], .bvs 0xFE#8)] = true := by decide +kernel

theorem test_decode_flow : words [
    ([0x80#8, 0xFE#8], .bra 0xFE#8), ([0x00#8], .brk), ([0x4C#8, 0x00#8, 0x44#8], .jmp (.abs 0x4400#16)),
    ([0x6C#8, 0x00#8, 0x44#8], .jmp (.ind 0x4400#16)), ([0x7C#8, 0x00#8, 0x44#8], .jmp (.absX 0x4400#16)), ([0x20#8, 0x00#8, 0x44#8], .jsr 0x4400#16),
    ([0x40#8], .rti), ([0x60#8], .rts), ([0xDB#8], .stp),
    ([0xCB#8], .wai)] = true := by decide +kernel

theorem test_decode_flag : words [
    ([0x18#8], .clc), ([0xD8#8], .cld), ([0x58#8], .cli),
    ([0xB8#8], .clv), ([0x38#8], .sec), ([0xF8#8], .sed),
    ([0x78#8], .sei)] = true := by decide +kernel

theorem test_decode_reserved : words [
    ([0x02#8, 0x44#8], .reserved 0x02#8 [0x44#8]), ([0x44#8, 0x10#8], .reserved 0x44#8 [0x10#8]),
    ([0xF4#8, 0x10#8], .reserved 0xF4#8 [0x10#8]), ([0x5C#8, 0x00#8, 0x44#8], .reserved 0x5C#8 [0x00#8, 0x44#8]),
    ([0xFC#8, 0x00#8, 0x44#8], .reserved 0xFC#8 [0x00#8, 0x44#8]), ([0x03#8], .reserved 0x03#8 []),
    ([0xF3#8], .reserved 0xF3#8 []), ([0xFB#8], .reserved 0xFB#8 [])] = true := by decide +kernel

/-- The three places where bytes can end too early. -/
theorem test_decode_truncated :
    decode [] = .error .noByte ∧ decode [0xA9#8] = .error (.truncated 0xA9#8) ∧
    decode [0xAD#8, 0x00#8] = .error (.truncated 0xAD#8) ∧ decode [0x5C#8] = .error (.truncated 0x5C#8) := ⟨rfl, rfl, rfl, rfl⟩

/-- The host's word: the first byte in bits 7:0. -/
theorem test_decodeTableWord :
    decodeTableWord 24 0x44006D = some (.adc (.mem (.abs 0x4400#16))) ∧ decodeTableWord 8 0xFFEA = some .nop ∧
    decodeTableWord 8 0x20 = some (.jsr 0x0000#16) := ⟨rfl, rfl, rfl⟩

/-! ## One step of each instruction: the vectors of 95_test_vectors.md -/

/-- The start state of every vector: PC = $0200, S = $FF, all else 0. -/
def start : State :=
  { State.reset with pc := 0x0200#16, sp := 0xFF#8, p := { n := false, v := false, d := false, i := false, z := false, c := false } }

/-- Place bytes in memory. -/
def poke (l : List (Word × Byte)) (s : State) : State := l.foldl (fun s c => s.setMem (s.mem.write c.1.toNat c.2)) s

/-- One step of a vector: the code at $0200, the other bytes placed, the start state changed, what the end state changes of it, and
the writes. -/
def vector (code : List Byte) (bytes : List (Word × Byte)) (before after : State → State) (writes : List (Word × Byte)) : Bool :=
  let s := poke bytes (loadBytes 0x0200#16 code (before start))
  match step s with
  | .next t => decide (t = poke writes (after s))
  | _ => false

theorem test_lda_V46 : vector [0xB5#8, 0xF0#8] [(0x0010#16, 0x66#8), (0x0110#16, 0xEE#8)] (fun s => { s with x := 0x20#8 }) (fun s => { s with a := 0x66#8, pc := 0x0202#16 }) [] = true := by decide +kernel
theorem test_ldx_V47 : vector [0xB6#8, 0xFF#8] [(0x0000#16, 0x55#8), (0x0100#16, 0xEE#8)] (fun s => { s with y := 0x01#8 }) (fun s => { s with x := 0x55#8, pc := 0x0202#16 }) [] = true := by decide +kernel
theorem test_lda_V50 : vector [0xB9#8, 0xFF#8, 0xFF#8] [(0x0001#16, 0x56#8)] (fun s => { s with y := 0x02#8 }) (fun s => { s with a := 0x56#8, pc := 0x0203#16 }) [] = true := by decide +kernel
theorem test_lda_V51 : vector [0xA1#8, 0x40#8] [(0x0044#16, 0x00#8), (0x0045#16, 0x30#8), (0x3000#16, 0xAB#8)] (fun s => { s with x := 0x04#8 }) (fun s => { s with a := 0xAB#8, pc := 0x0202#16, p := { s.p with n := true } }) [] = true := by decide +kernel
theorem test_sta_V58 : vector [0x9D#8, 0x00#8, 0x44#8] [] (fun s => { s with a := 0x5A#8, x := 0x03#8 }) (fun s => { s with pc := 0x0203#16 }) [(0x4403#16, 0x5A#8)] = true := by decide +kernel
theorem test_sta_V59 : vector [0x91#8, 0x44#8] [(0x0044#16, 0x00#8), (0x0045#16, 0x40#8)] (fun s => { s with a := 0xA5#8, y := 0x02#8 }) (fun s => { s with pc := 0x0202#16 }) [(0x4002#16, 0xA5#8)] = true := by decide +kernel
theorem test_bbr3_S1 : vector [0x3F#8, 0x44#8, 0x01#8] [(0x0044#16, 0x00#8)] (id) (fun s => { s with pc := 0x0204#16 }) [] = true := by decide +kernel
theorem test_bbr3_S2 : vector [0x3F#8, 0x44#8, 0x01#8] [(0x0044#16, 0xF7#8)] (id) (fun s => { s with pc := 0x0204#16 }) [] = true := by decide +kernel
theorem test_bbs3_S5 : vector [0xBF#8, 0x44#8, 0x01#8] [(0x0044#16, 0x08#8)] (id) (fun s => { s with pc := 0x0204#16 }) [] = true := by decide +kernel
theorem test_bbs3_S6 : vector [0xBF#8, 0x44#8, 0x01#8] [(0x0044#16, 0xFF#8)] (id) (fun s => { s with pc := 0x0204#16 }) [] = true := by decide +kernel
theorem test_eor_S12 : vector [0x49#8, 0x0A#8] [] (fun s => { s with a := 0x0C#8 }) (fun s => { s with a := 0x06#8, pc := 0x0202#16 }) [] = true := by decide +kernel
theorem test_eor_S13 : vector [0x49#8, 0xFF#8] [] (fun s => { s with a := 0x0F#8 }) (fun s => { s with a := 0xF0#8, pc := 0x0202#16, p := { s.p with n := true } }) [] = true := by decide +kernel
theorem test_cmp_S15 : vector [0xC9#8, 0x44#8] [] (fun s => { s with a := 0x44#8 }) (fun s => { s with pc := 0x0202#16, p := { s.p with z := true, c := true } }) [] = true := by decide +kernel
theorem test_cmp_S16 : vector [0xC9#8, 0x44#8] [] (fun s => { s with a := 0x50#8 }) (fun s => { s with pc := 0x0202#16, p := { s.p with c := true } }) [] = true := by decide +kernel
theorem test_cpx_S24 : vector [0xE0#8, 0x44#8] [] (fun s => { s with x := 0x44#8 }) (fun s => { s with pc := 0x0202#16, p := { s.p with z := true, c := true } }) [] = true := by decide +kernel
theorem test_cpy_S25 : vector [0xC0#8, 0x45#8] [] (fun s => { s with y := 0x44#8 }) (fun s => { s with pc := 0x0202#16, p := { s.p with n := true } }) [] = true := by decide +kernel
theorem test_php_S27 : vector [0x08#8] [] (id) (fun s => { s with sp := 0xFE#8, pc := 0x0201#16 }) [(0x01FF#16, 0x30#8)] = true := by decide +kernel
theorem test_php_S28 : vector [0x08#8] [] (fun s => { s with p := { s.p with n := true, v := true, d := true, i := true, z := true, c := true } }) (fun s => { s with sp := 0xFE#8, pc := 0x0201#16 }) [(0x01FF#16, 0xFF#8)] = true := by decide +kernel
theorem test_plp_S30 : vector [0x28#8] [(0x01FF#16, 0x00#8)] (fun s => { s with sp := 0xFE#8 }) (fun s => { s with sp := 0xFF#8, pc := 0x0201#16 }) [] = true := by decide +kernel
theorem test_plp_S31 : vector [0x28#8] [(0x01FF#16, 0xCF#8)] (fun s => { s with sp := 0xFE#8 }) (fun s => { s with sp := 0xFF#8, pc := 0x0201#16, p := { s.p with n := true, v := true, d := true, i := true, z := true, c := true }, maskEdge := true }) [] = true := by decide +kernel
theorem test_inx_S35 : vector [0xE8#8] [] (fun s => { s with x := 0xFF#8 }) (fun s => { s with x := 0x00#8, pc := 0x0201#16, p := { s.p with z := true } }) [] = true := by decide +kernel
theorem test_dex_S36 : vector [0xCA#8] [] (fun s => { s with x := 0x00#8 }) (fun s => { s with x := 0xFF#8, pc := 0x0201#16, p := { s.p with n := true } }) [] = true := by decide +kernel
theorem test_inc_S37 : vector [0xE6#8, 0x44#8] [(0x0044#16, 0x7F#8)] (id) (fun s => { s with pc := 0x0202#16, p := { s.p with n := true } }) [(0x0044#16, 0x80#8)] = true := by decide +kernel
theorem test_dec_S38 : vector [0xC6#8, 0x44#8] [(0x0044#16, 0x01#8)] (id) (fun s => { s with pc := 0x0202#16, p := { s.p with z := true } }) [(0x0044#16, 0x00#8)] = true := by decide +kernel
theorem test_asl_S39 : vector [0x0A#8] [] (fun s => { s with a := 0x81#8 }) (fun s => { s with a := 0x02#8, pc := 0x0201#16, p := { s.p with c := true } }) [] = true := by decide +kernel
theorem test_lsr_S40 : vector [0x4A#8] [] (fun s => { s with a := 0x81#8, p := { s.p with c := false } }) (fun s => { s with a := 0x40#8, pc := 0x0201#16, p := { s.p with c := true } }) [] = true := by decide +kernel
theorem test_jsr_S41 : vector [0x20#8, 0x00#8, 0x44#8] [] (id) (fun s => { s with sp := 0xFD#8, pc := 0x4400#16 }) [(0x01FE#16, 0x02#8), (0x01FF#16, 0x02#8)] = true := by decide +kernel
theorem test_brk_S42 : vector [0x00#8] [(0xFFFE#16, 0x00#8), (0xFFFF#16, 0x03#8)] (fun s => { s with p := { s.p with d := true, c := true } }) (fun s => { s with sp := 0xFC#8, pc := 0x0300#16, p := { s.p with d := false, i := true } }) [(0x01FD#16, 0x39#8), (0x01FE#16, 0x02#8), (0x01FF#16, 0x02#8)] = true := by decide +kernel
theorem test_nop_S43 : vector [0xEA#8] [] (fun s => { s with a := 0x12#8, p := { s.p with n := true, c := true } }) (fun s => { s with pc := 0x0201#16 }) [] = true := by decide +kernel
theorem test_ldx_V60 : vector [0xA2#8, 0x00#8] [] (fun s => { s with p := { s.p with n := true } }) (fun s => { s with x := 0x00#8, pc := 0x0202#16, p := { s.p with n := false, z := true } }) [] = true := by decide +kernel
theorem test_ldy_V61 : vector [0xA0#8, 0xFF#8] [] (id) (fun s => { s with y := 0xFF#8, pc := 0x0202#16, p := { s.p with n := true } }) [] = true := by decide +kernel
theorem test_ldy_V63 : vector [0xBC#8, 0x00#8, 0x44#8] [(0x4405#16, 0x22#8)] (fun s => { s with x := 0x05#8 }) (fun s => { s with y := 0x22#8, pc := 0x0203#16 }) [] = true := by decide +kernel
theorem test_stx_V65 : vector [0x86#8, 0x44#8] [] (fun s => { s with x := 0x80#8 }) (fun s => { s with pc := 0x0202#16 }) [(0x0044#16, 0x80#8)] = true := by decide +kernel
theorem test_stx_V66 : vector [0x96#8, 0x44#8] [] (fun s => { s with x := 0x33#8, y := 0x01#8 }) (fun s => { s with pc := 0x0202#16 }) [(0x0045#16, 0x33#8)] = true := by decide +kernel
theorem test_sty_V67 : vector [0x94#8, 0xFF#8] [] (fun s => { s with x := 0x02#8, y := 0x44#8 }) (fun s => { s with pc := 0x0202#16 }) [(0x0001#16, 0x44#8)] = true := by decide +kernel
theorem test_sty_V68 : vector [0x8C#8, 0x00#8, 0x44#8] [] (fun s => { s with y := 0x11#8 }) (fun s => { s with pc := 0x0203#16 }) [(0x4400#16, 0x11#8)] = true := by decide +kernel
theorem test_stz_V69 : vector [0x64#8, 0x44#8] [(0x0044#16, 0xAA#8)] (fun s => { s with a := 0xFF#8 }) (fun s => { s with pc := 0x0202#16 }) [(0x0044#16, 0x00#8)] = true := by decide +kernel
theorem test_stz_V70 : vector [0x9E#8, 0x00#8, 0x44#8] [(0x4402#16, 0xAA#8)] (fun s => { s with x := 0x02#8 }) (fun s => { s with pc := 0x0203#16 }) [(0x4402#16, 0x00#8)] = true := by decide +kernel
theorem test_tax_V72 : vector [0xAA#8] [] (fun s => { s with a := 0x80#8 }) (fun s => { s with x := 0x80#8, pc := 0x0201#16, p := { s.p with n := true } }) [] = true := by decide +kernel
theorem test_tay_V73 : vector [0xA8#8] [] (fun s => { s with a := 0x00#8, p := { s.p with n := true } }) (fun s => { s with y := 0x00#8, pc := 0x0201#16, p := { s.p with n := false, z := true } }) [] = true := by decide +kernel
theorem test_tsx_V74 : vector [0xBA#8] [] (fun s => { s with sp := 0xFD#8 }) (fun s => { s with x := 0xFD#8, pc := 0x0201#16, p := { s.p with n := true } }) [] = true := by decide +kernel
theorem test_txa_V75 : vector [0x8A#8] [] (fun s => { s with x := 0x01#8, p := { s.p with z := true } }) (fun s => { s with a := 0x01#8, pc := 0x0201#16, p := { s.p with z := false } }) [] = true := by decide +kernel
theorem test_txs_V76 : vector [0x9A#8] [] (fun s => { s with x := 0x00#8, p := { s.p with n := true } }) (fun s => { s with sp := 0x00#8, pc := 0x0201#16 }) [] = true := by decide +kernel
theorem test_tya_V77 : vector [0x98#8] [] (fun s => { s with y := 0x7F#8, p := { s.p with n := true } }) (fun s => { s with a := 0x7F#8, pc := 0x0201#16, p := { s.p with n := false } }) [] = true := by decide +kernel
theorem test_pha_V78 : vector [0x48#8] [] (fun s => { s with a := 0x42#8 }) (fun s => { s with sp := 0xFE#8, pc := 0x0201#16 }) [(0x01FF#16, 0x42#8)] = true := by decide +kernel
theorem test_pha_V79 : vector [0x48#8] [] (fun s => { s with a := 0x42#8, sp := 0x00#8 }) (fun s => { s with sp := 0xFF#8, pc := 0x0201#16 }) [(0x0100#16, 0x42#8)] = true := by decide +kernel
theorem test_pla_V80 : vector [0x68#8] [(0x0100#16, 0x80#8)] (fun s => { s with sp := 0xFF#8 }) (fun s => { s with a := 0x80#8, sp := 0x00#8, pc := 0x0201#16, p := { s.p with n := true } }) [] = true := by decide +kernel
theorem test_pla_V81 : vector [0x68#8] [(0x01FD#16, 0x00#8)] (fun s => { s with sp := 0xFC#8, p := { s.p with n := true } }) (fun s => { s with a := 0x00#8, sp := 0xFD#8, pc := 0x0201#16, p := { s.p with n := false, z := true } }) [] = true := by decide +kernel
theorem test_phx_V82 : vector [0xDA#8] [] (fun s => { s with x := 0x11#8 }) (fun s => { s with sp := 0xFE#8, pc := 0x0201#16 }) [(0x01FF#16, 0x11#8)] = true := by decide +kernel
theorem test_phy_V83 : vector [0x5A#8] [] (fun s => { s with y := 0x22#8 }) (fun s => { s with sp := 0xFE#8, pc := 0x0201#16 }) [(0x01FF#16, 0x22#8)] = true := by decide +kernel
theorem test_plx_V84 : vector [0xFA#8] [(0x01FF#16, 0x90#8)] (fun s => { s with sp := 0xFE#8 }) (fun s => { s with x := 0x90#8, sp := 0xFF#8, pc := 0x0201#16, p := { s.p with n := true } }) [] = true := by decide +kernel
theorem test_ply_V85 : vector [0x7A#8] [(0x01FF#16, 0x00#8)] (fun s => { s with sp := 0xFE#8 }) (fun s => { s with y := 0x00#8, sp := 0xFF#8, pc := 0x0201#16, p := { s.p with z := true } }) [] = true := by decide +kernel
theorem test_and_V88 : vector [0x29#8, 0x0F#8] [] (fun s => { s with a := 0xF5#8, p := { s.p with d := true, c := true } }) (fun s => { s with a := 0x05#8, pc := 0x0202#16 }) [] = true := by decide +kernel
theorem test_and_V89 : vector [0x29#8, 0x00#8] [] (fun s => { s with a := 0xFF#8, p := { s.p with n := true } }) (fun s => { s with a := 0x00#8, pc := 0x0202#16, p := { s.p with n := false, z := true } }) [] = true := by decide +kernel
theorem test_ora_V90 : vector [0x09#8, 0x80#8] [] (fun s => { s with a := 0x01#8 }) (fun s => { s with a := 0x81#8, pc := 0x0202#16, p := { s.p with n := true } }) [] = true := by decide +kernel
theorem test_asl_V92 : vector [0x0A#8] [] (fun s => { s with a := 0x80#8 }) (fun s => { s with a := 0x00#8, pc := 0x0201#16, p := { s.p with z := true, c := true } }) [] = true := by decide +kernel
theorem test_lsr_V96 : vector [0x4A#8] [] (fun s => { s with a := 0x01#8 }) (fun s => { s with a := 0x00#8, pc := 0x0201#16, p := { s.p with z := true, c := true } }) [] = true := by decide +kernel
theorem test_rol_V98 : vector [0x2A#8] [] (fun s => { s with a := 0x80#8, p := { s.p with c := true } }) (fun s => { s with a := 0x01#8, pc := 0x0201#16 }) [] = true := by decide +kernel
theorem test_rol_V99 : vector [0x2A#8] [] (fun s => { s with a := 0x80#8, p := { s.p with c := false } }) (fun s => { s with a := 0x00#8, pc := 0x0201#16, p := { s.p with z := true, c := true } }) [] = true := by decide +kernel
theorem test_ror_V101 : vector [0x6A#8] [] (fun s => { s with a := 0x01#8, p := { s.p with c := true } }) (fun s => { s with a := 0x80#8, pc := 0x0201#16, p := { s.p with n := true } }) [] = true := by decide +kernel
theorem test_ror_V102 : vector [0x6A#8] [] (fun s => { s with a := 0x01#8, p := { s.p with c := false } }) (fun s => { s with a := 0x00#8, pc := 0x0201#16, p := { s.p with z := true, c := true } }) [] = true := by decide +kernel
theorem test_bit_V104 : vector [0x24#8, 0x44#8] [(0x0044#16, 0xC0#8)] (fun s => { s with a := 0x0F#8 }) (fun s => { s with pc := 0x0202#16, p := { s.p with n := true, v := true, z := true } }) [] = true := by decide +kernel
theorem test_bit_V105 : vector [0x2C#8, 0x00#8, 0x44#8] [(0x4400#16, 0x01#8)] (fun s => { s with a := 0x01#8, p := { s.p with n := true, v := true } }) (fun s => { s with pc := 0x0203#16, p := { s.p with n := false, v := false } }) [] = true := by decide +kernel
theorem test_trb_V109 : vector [0x14#8, 0x44#8] [(0x0044#16, 0x3C#8)] (fun s => { s with a := 0x0F#8 }) (fun s => { s with pc := 0x0202#16 }) [(0x0044#16, 0x30#8)] = true := by decide +kernel
theorem test_trb_V110 : vector [0x14#8, 0x44#8] [(0x0044#16, 0x3F#8)] (fun s => { s with a := 0xC0#8, p := { s.p with n := false } }) (fun s => { s with pc := 0x0202#16, p := { s.p with z := true } }) [(0x0044#16, 0x3F#8)] = true := by decide +kernel
theorem test_tsb_V111 : vector [0x04#8, 0x44#8] [(0x0044#16, 0x18#8)] (fun s => { s with a := 0x81#8 }) (fun s => { s with pc := 0x0202#16, p := { s.p with z := true } }) [(0x0044#16, 0x99#8)] = true := by decide +kernel
theorem test_tsb_V112 : vector [0x0C#8, 0x00#8, 0x44#8] [(0x4400#16, 0x01#8)] (fun s => { s with a := 0x01#8 }) (fun s => { s with pc := 0x0203#16 }) [(0x4400#16, 0x01#8)] = true := by decide +kernel
theorem test_rmb3_V113 : vector [0x37#8, 0x44#8] [(0x0044#16, 0xFF#8)] (id) (fun s => { s with pc := 0x0202#16 }) [(0x0044#16, 0xF7#8)] = true := by decide +kernel
theorem test_rmb0_V114 : vector [0x07#8, 0x44#8] [(0x0044#16, 0x00#8)] (id) (fun s => { s with pc := 0x0202#16 }) [(0x0044#16, 0x00#8)] = true := by decide +kernel
theorem test_smb7_V115 : vector [0xF7#8, 0x44#8] [(0x0044#16, 0x00#8)] (id) (fun s => { s with pc := 0x0202#16 }) [(0x0044#16, 0x80#8)] = true := by decide +kernel
theorem test_smb0_V116 : vector [0x87#8, 0x44#8] [(0x0044#16, 0xFE#8)] (fun s => { s with p := { s.p with z := true } }) (fun s => { s with pc := 0x0202#16 }) [(0x0044#16, 0xFF#8)] = true := by decide +kernel
theorem test_adc_V117 : vector [0x69#8, 0x01#8] [] (fun s => { s with a := 0x01#8 }) (fun s => { s with a := 0x02#8, pc := 0x0202#16 }) [] = true := by decide +kernel
theorem test_adc_V118 : vector [0x69#8, 0x01#8] [] (fun s => { s with a := 0x01#8, p := { s.p with c := true } }) (fun s => { s with a := 0x03#8, pc := 0x0202#16, p := { s.p with c := false } }) [] = true := by decide +kernel
theorem test_sbc_V127 : vector [0xE9#8, 0x01#8] [] (fun s => { s with a := 0x05#8, p := { s.p with c := true } }) (fun s => { s with a := 0x04#8, pc := 0x0202#16 }) [] = true := by decide +kernel
theorem test_sbc_V128 : vector [0xE9#8, 0x01#8] [] (fun s => { s with a := 0x05#8, p := { s.p with c := false } }) (fun s => { s with a := 0x03#8, pc := 0x0202#16, p := { s.p with c := true } }) [] = true := by decide +kernel
theorem test_cpx_V153 : vector [0xEC#8, 0x00#8, 0x44#8] [(0x4400#16, 0x01#8)] (fun s => { s with x := 0xFF#8 }) (fun s => { s with pc := 0x0203#16, p := { s.p with n := true, c := true } }) [] = true := by decide +kernel
theorem test_cpy_V154 : vector [0xC4#8, 0x44#8] [(0x0044#16, 0x00#8)] (fun s => { s with y := 0x00#8 }) (fun s => { s with pc := 0x0202#16, p := { s.p with z := true, c := true } }) [] = true := by decide +kernel
theorem test_inc_V155 : vector [0x1A#8] [] (fun s => { s with a := 0xFF#8, p := { s.p with c := false } }) (fun s => { s with a := 0x00#8, pc := 0x0201#16, p := { s.p with z := true } }) [] = true := by decide +kernel
theorem test_iny_V159 : vector [0xC8#8] [] (fun s => { s with y := 0x7F#8 }) (fun s => { s with y := 0x80#8, pc := 0x0201#16, p := { s.p with n := true } }) [] = true := by decide +kernel
theorem test_dec_V160 : vector [0x3A#8] [] (fun s => { s with a := 0x00#8 }) (fun s => { s with a := 0xFF#8, pc := 0x0201#16, p := { s.p with n := true } }) [] = true := by decide +kernel
theorem test_dey_V162 : vector [0x88#8] [] (fun s => { s with y := 0x01#8 }) (fun s => { s with y := 0x00#8, pc := 0x0201#16, p := { s.p with z := true } }) [] = true := by decide +kernel
theorem test_bcc_V163 : vector [0x90#8, 0x10#8] [] (fun s => { s with p := { s.p with c := false } }) (fun s => { s with pc := 0x0212#16 }) [] = true := by decide +kernel
theorem test_bcc_V164 : vector [0x90#8, 0x10#8] [] (fun s => { s with p := { s.p with c := true } }) (fun s => { s with pc := 0x0202#16 }) [] = true := by decide +kernel
theorem test_bcs_V165 : vector [0xB0#8, 0xFE#8] [] (fun s => { s with p := { s.p with c := true } }) (fun s => { s with pc := 0x0200#16 }) [] = true := by decide +kernel
theorem test_beq_V166 : vector [0xF0#8, 0x7F#8] [] (fun s => { s with p := { s.p with z := true } }) (fun s => { s with pc := 0x0281#16 }) [] = true := by decide +kernel
theorem test_beq_V167 : vector [0xF0#8, 0x80#8] [] (fun s => { s with p := { s.p with z := true } }) (fun s => { s with pc := 0x0182#16 }) [] = true := by decide +kernel
theorem test_bmi_V169 : vector [0x30#8, 0x00#8] [] (fun s => { s with p := { s.p with n := true } }) (fun s => { s with pc := 0x0202#16 }) [] = true := by decide +kernel
theorem test_bne_V170 : vector [0xD0#8, 0x05#8] [] (fun s => { s with p := { s.p with z := false } }) (fun s => { s with pc := 0x0207#16 }) [] = true := by decide +kernel
theorem test_bne_V171 : vector [0xD0#8, 0x05#8] [] (fun s => { s with p := { s.p with n := true, z := true } }) (fun s => { s with pc := 0x0202#16 }) [] = true := by decide +kernel
theorem test_bpl_V173 : vector [0x10#8, 0x05#8] [] (fun s => { s with p := { s.p with n := false } }) (fun s => { s with pc := 0x0207#16 }) [] = true := by decide +kernel
theorem test_bpl_V174 : vector [0x10#8, 0x05#8] [] (fun s => { s with p := { s.p with n := true } }) (fun s => { s with pc := 0x0202#16 }) [] = true := by decide +kernel
theorem test_bvc_V175 : vector [0x50#8, 0x05#8] [] (fun s => { s with p := { s.p with v := false } }) (fun s => { s with pc := 0x0207#16 }) [] = true := by decide +kernel
theorem test_bvs_V176 : vector [0x70#8, 0x05#8] [] (fun s => { s with p := { s.p with v := true } }) (fun s => { s with pc := 0x0207#16 }) [] = true := by decide +kernel
theorem test_bvs_V177 : vector [0x70#8, 0x05#8] [] (fun s => { s with p := { s.p with v := false } }) (fun s => { s with pc := 0x0202#16 }) [] = true := by decide +kernel
theorem test_bra_V178 : vector [0x80#8, 0xFD#8] [] (id) (fun s => { s with pc := 0x01FF#16 }) [] = true := by decide +kernel
theorem test_bbr0_V181 : vector [0x0F#8, 0x44#8, 0x10#8] [(0x0044#16, 0xFE#8)] (id) (fun s => { s with pc := 0x0213#16 }) [] = true := by decide +kernel
theorem test_bbr7_V182 : vector [0x7F#8, 0x44#8, 0x10#8] [(0x0044#16, 0x80#8)] (id) (fun s => { s with pc := 0x0203#16 }) [] = true := by decide +kernel
theorem test_bbs0_V183 : vector [0x8F#8, 0x44#8, 0xFD#8] [(0x0044#16, 0x01#8)] (id) (fun s => { s with pc := 0x0200#16 }) [] = true := by decide +kernel
theorem test_bbs7_V184 : vector [0xFF#8, 0x44#8, 0x7F#8] [(0x0044#16, 0x80#8)] (id) (fun s => { s with pc := 0x0282#16 }) [] = true := by decide +kernel
theorem test_jmp_V185 : vector [0x4C#8, 0x00#8, 0x44#8] [] (id) (fun s => { s with pc := 0x4400#16 }) [] = true := by decide +kernel
theorem test_jmp_V186 : vector [0x6C#8, 0x00#8, 0x03#8] [(0x0300#16, 0x34#8), (0x0301#16, 0x12#8)] (id) (fun s => { s with pc := 0x1234#16 }) [] = true := by decide +kernel
theorem test_rts_V191 : vector [0x60#8] [(0x01FE#16, 0x02#8), (0x01FF#16, 0x02#8)] (fun s => { s with sp := 0xFD#8 }) (fun s => { s with sp := 0xFF#8, pc := 0x0203#16 }) [] = true := by decide +kernel
theorem test_rts_V192 : vector [0x60#8] [(0x01FE#16, 0xFF#8), (0x01FF#16, 0xFF#8)] (fun s => { s with sp := 0xFD#8 }) (fun s => { s with sp := 0xFF#8, pc := 0x0000#16 }) [] = true := by decide +kernel
theorem test_rti_V193 : vector [0x40#8] [(0x01FD#16, 0xA1#8), (0x01FE#16, 0x02#8), (0x01FF#16, 0x02#8)] (fun s => { s with sp := 0xFC#8 }) (fun s => { s with sp := 0xFF#8, pc := 0x0202#16, p := { s.p with n := true, c := true } }) [] = true := by decide +kernel
theorem test_rti_V194 : vector [0x40#8] [(0x01FD#16, 0x39#8), (0x01FE#16, 0x02#8), (0x01FF#16, 0x02#8)] (fun s => { s with sp := 0xFC#8, p := { s.p with i := true } }) (fun s => { s with sp := 0xFF#8, pc := 0x0202#16, p := { s.p with d := true, i := false, c := true } }) [] = true := by decide +kernel
theorem test_brk_V195 : vector [0x00#8] [(0xFFFE#16, 0x00#8), (0xFFFF#16, 0x03#8)] (fun s => { s with p := { s.p with n := true, i := true } }) (fun s => { s with sp := 0xFC#8, pc := 0x0300#16 }) [(0x01FD#16, 0xB4#8), (0x01FE#16, 0x02#8), (0x01FF#16, 0x02#8)] = true := by decide +kernel
theorem test_clc_V196 : vector [0x18#8] [] (fun s => { s with p := { s.p with n := true, v := true, d := true, i := true, z := true, c := true } }) (fun s => { s with pc := 0x0201#16, p := { s.p with c := false } }) [] = true := by decide +kernel
theorem test_cld_V197 : vector [0xD8#8] [] (fun s => { s with p := { s.p with n := true, v := true, d := true, i := true, z := true, c := true } }) (fun s => { s with pc := 0x0201#16, p := { s.p with d := false } }) [] = true := by decide +kernel
theorem test_cli_V198 : vector [0x58#8] [] (fun s => { s with p := { s.p with n := true, v := true, d := true, i := true, z := true, c := true } }) (fun s => { s with pc := 0x0201#16, p := { s.p with i := false }, maskEdge := true }) [] = true := by decide +kernel
theorem test_clv_V199 : vector [0xB8#8] [] (fun s => { s with p := { s.p with n := true, v := true, d := true, i := true, z := true, c := true } }) (fun s => { s with pc := 0x0201#16, p := { s.p with v := false } }) [] = true := by decide +kernel
theorem test_sec_V200 : vector [0x38#8] [] (id) (fun s => { s with pc := 0x0201#16, p := { s.p with c := true } }) [] = true := by decide +kernel
theorem test_sed_V201 : vector [0xF8#8] [] (id) (fun s => { s with pc := 0x0201#16, p := { s.p with d := true } }) [] = true := by decide +kernel
theorem test_sei_V202 : vector [0x78#8] [] (id) (fun s => { s with pc := 0x0201#16, p := { s.p with i := true }, maskEdge := true }) [] = true := by decide +kernel
theorem test_clc_V203 : vector [0x18#8] [] (id) (fun s => { s with pc := 0x0201#16 }) [] = true := by decide +kernel

/-- RMBn and SMBn, every bit number: bit n of $00 or $FF at $44, no flag (R153, R154). -/
theorem test_rmb_smb_every_bit : (List.range 8).all (fun n =>
    vector [BitVec.ofNat 8 (16 * n + 7), 0x44#8] [(0x0044#16, 0xFF#8)] id
      (fun s => { s with pc := 0x0202#16 }) [(0x0044#16, BitVec.ofNat 8 (255 - 2 ^ n))] &&
    vector [BitVec.ofNat 8 (16 * n + 0x87), 0x44#8] [] id
      (fun s => { s with pc := 0x0202#16 }) [(0x0044#16, BitVec.ofNat 8 (2 ^ n))]) = true := by decide +kernel

/-- BBRn and BBSn, every bit number: on a byte in which bit n alone is set, and on one in which it alone is clear (R189, R190). -/
theorem test_bbr_bbs_every_bit : (List.range 8).all (fun n =>
    vector [BitVec.ofNat 8 (16 * n + 0x0F), 0x44#8, 0x10#8] [(0x0044#16, BitVec.ofNat 8 (2 ^ n))] id
      (fun s => { s with pc := 0x0203#16 }) [] &&
    vector [BitVec.ofNat 8 (16 * n + 0x0F), 0x44#8, 0x10#8] [(0x0044#16, BitVec.ofNat 8 (255 - 2 ^ n))] id
      (fun s => { s with pc := 0x0213#16 }) [] &&
    vector [BitVec.ofNat 8 (16 * n + 0x8F), 0x44#8, 0x10#8] [(0x0044#16, BitVec.ofNat 8 (2 ^ n))] id
      (fun s => { s with pc := 0x0213#16 }) [] &&
    vector [BitVec.ofNat 8 (16 * n + 0x8F), 0x44#8, 0x10#8] [(0x0044#16, BitVec.ofNat 8 (255 - 2 ^ n))] id
      (fun s => { s with pc := 0x0203#16 }) []) = true := by decide +kernel

/-- STP at $0200 (46_flow.md R207's example). -/
theorem test_stp : vector [0xDB#8] [] id (fun s => { s with pc := 0x0201#16, stopped := true }) [] = true := by decide +kernel

/-- WAI at $0200 (46_flow.md R208). -/
theorem test_wai : vector [0xCB#8] [] id (fun s => { s with pc := 0x0201#16, waiting := true }) [] = true := by decide +kernel

/-- Reserved bytes of each length as no-operations (30_encoding.md R90, log 2). -/
theorem test_reserved :
    vector [0x03#8] [] id (fun s => { s with pc := 0x0201#16 }) [] = true ∧
    vector [0x44#8, 0xDB#8] [] id (fun s => { s with pc := 0x0202#16 }) [] = true ∧
    vector [0x5C#8, 0xDB#8, 0xDB#8] [] id (fun s => { s with pc := 0x0203#16 }) [] = true := by decide +kernel

/-- A and C after decimal ADC and SBC of valid BCD (vectors V137, V144), V being free. -/
theorem test_decimal :
    (match step (loadBytes 0x0200#16 [0x69#8, 0x01#8] { start with a := 0x99#8, p := { start.p with d := true } }) with
      | .next t => decide (t.a = 0x00#8 ∧ t.p.c = true ∧ t.p.z = true) | _ => false) = true ∧
    (match step (loadBytes 0x0200#16 [0xE9#8, 0x01#8] { start with a := 0x00#8, p := { start.p with d := true, c := true } }) with
      | .next t => decide (t.a = 0x99#8 ∧ t.p.c = false ∧ t.p.n = true) | _ => false) = true := by decide +kernel

/-- The algorithms of R162 and R163 on invalid BCD (vectors V148, V149, V150). -/
theorem test_decimal_algorithm :
    adcDecimal 0x0A#8 0x00#8 false = { value := 0x10#8, carry := false, overflow := false } ∧
    adcDecimal 0x0F#8 0x0F#8 false = { value := 0x14#8, carry := false, overflow := false } ∧
    (sbcDecimal 0x00#8 0x0A#8 true).value = 0x90#8 := by decide +kernel

/-- The host's fetch word: the next step runs it, whatever stood in the way of a fetch. -/
theorem test_withFetchWord :
    (match step (State.reset.withFetchWord 16 0x44A9) with | .next t => decide (t.a = 0x44#8 ∧ t.pc = 0x0002#16) | _ => false) = true ∧
    (match step (({ start with waiting := true, irqLine := true }).withFetchWord 8 0xE8) with
      | .next t => decide (t.x = 0x01#8) | _ => false) = true := by decide +kernel

/-! ## Interrupts and reset: Part 4 of 95_test_vectors.md -/

/-- The memory of Part 4: NMI vector $0400, reset vector $0200, IRQ/BRK vector $0300. -/
def vectors : List (Word × Byte) := [(0xFFFB#16, 0x04#8), (0xFFFD#16, 0x02#8), (0xFFFF#16, 0x03#8)]

/-- The state of a scenario at its boundary. -/
def scene (f : State → State) : State := poke vectors (f { start with pc := 0x1234#16 })

/-- One step of a scenario ends in the state given. -/
def steps (s t : State) : Bool := match step s with
  | .next u => decide (u = t)
  | _ => false

/-- An entry's frame with its return address $1234. -/
def frame (image : Byte) : List (Word × Byte) := [(0x01FF#16, 0x12#8), (0x01FE#16, 0x34#8), (0x01FD#16, image)]

/-- A record of inputs with nothing in it but the level of irq_line. -/
def line (b : Bool) : Inputs := { irqLine := b, nmiEdge := false, reset := false }

theorem test_I1_irq_entry :
    let s := scene fun s => { s with irqLine := true, p := { s.p with n := true, c := true } }
    steps s (poke (frame 0xA1#8) { s with sp := 0xFC#8, pc := 0x0300#16, p := { s.p with i := true } }) = true := by decide +kernel

theorem test_I2_irq_masked :
    let s := poke [(0x1234#16, 0xEA#8)] (scene fun s => { s with irqLine := true, p := { s.p with i := true } })
    steps s { s with pc := 0x1235#16 } = true := by decide +kernel

theorem test_I3_nmi_entry :
    let s := scene fun s => { s with nmiPending := true, p := { s.p with i := true, d := true, z := true } }
    steps s (poke (frame 0x2E#8)
      { s with sp := 0xFC#8, pc := 0x0400#16, nmiPending := false, p := { s.p with d := false } }) = true := by decide +kernel

theorem test_I4_nmi_before_irq :
    let s := scene fun s => { s with nmiPending := true, irqLine := true }
    steps s (poke (frame 0x20#8)
      { s with sp := 0xFC#8, pc := 0x0400#16, nmiPending := false, p := { s.p with i := true } }) = true := by decide +kernel

theorem test_I8_irq_ends_wait :
    let s := scene fun s => { s with waiting := true, irqLine := true }
    steps s (poke (frame 0x20#8)
      { s with sp := 0xFC#8, pc := 0x0300#16, waiting := false, p := { s.p with i := true } }) = true := by decide +kernel

theorem test_I9_masked_irq_wakes :
    let s := scene fun s => { s with waiting := true, irqLine := true, p := { s.p with i := true } }
    steps s { s with waiting := false } = true := by decide +kernel

theorem test_I10_nmi_edge_ends_wait :
    let s := scene fun s => { s with
      waiting := true, inputs := [{ irqLine := false, nmiEdge := true, reset := false }], p := { s.p with i := true } }
    steps s (poke (frame 0x24#8) { s with sp := 0xFC#8, pc := 0x0400#16, waiting := false, inputs := [] }) = true := by decide +kernel

theorem test_I11_waits :
    let s := scene fun s => { s with waiting := true }
    steps s s = true := by decide +kernel

theorem test_I12_stopped_ignores_inputs :
    let s := scene fun s => { s with stopped := true, inputs := [{ irqLine := true, nmiEdge := true, reset := false }] }
    steps s { s with irqLine := true, inputs := [] } = true := by decide +kernel

theorem test_I13_reset_of_a_stopped_machine :
    let s := scene fun s => { s with
      stopped := true, p := { s.p with d := true }, inputs := [{ irqLine := false, nmiEdge := false, reset := true }] }
    (match step s with
      | .next t => decide (t.pc = 0x0200#16 ∧ t.stopped = false ∧ t.p.i = true ∧ t.p.d = false ∧ t.mem = s.mem)
      | _ => false) = true := by decide +kernel

/-- I6 and I7: CLI and SEI note the edge that admits both outcomes (R241). -/
theorem test_I6_I7_mask_edge :
    (match exec .cli { start with p := { start.p with i := true } } with | .next t => t.maskEdge | _ => false) = true ∧
    (match exec .sei start with | .next t => t.maskEdge | _ => false) = true ∧
    (match exec .sei { start with p := { start.p with i := true } } with | .next t => t.maskEdge | _ => true) = false := by
  decide +kernel

/-- A NOP that a reset cuts short: the reset sequence ran, and memory is as it was (R260). -/
theorem test_reset_inside_a_nop :
    let s := poke (vectors ++ [(0x0300#16, 0xEA#8)]) { start with
      pc := 0x0300#16, inputs := [{ irqLine := false, nmiEdge := false, reset := false, resetInside := true }] }
    (match step s with | .next t => decide (t.pc = 0x0200#16 ∧ t.p.i = true ∧ t.mem = s.mem) | _ => false) = true := by
  decide +kernel

/-- STZ $44 at $0300. -/
def storing : State := poke (vectors ++ [(0x0300#16, 0x64#8), (0x0301#16, 0x44#8)]) { start with pc := 0x0300#16 }

/-- What a step writes (20_memory.md R35): a store its address, an IRQ entry three stack bytes. -/
theorem test_stepWrites :
    stepWrites storing = [0x0044#16] ∧
    stepWrites { storing with irqLine := true, sp := 0x01#8 } = [0x0101#16, 0x0100#16, 0x01FF#16] := by decide +kernel

/-! ## Regions (20_memory.md R33) -/

/-- A map with every kind of region: devices at $9F00 to $9FFF, nothing at $A000 to $BFFF, ROM from $C000, RAM elsewhere. -/
def mixedMap : MemoryMap :=
  [{ base := 0x9F00, size := 0x100, region := .device }, { base := 0xA000, size := 0x2000, region := .unmapped },
   { base := 0xC000, size := 0x4000, region := .rom }]

/-- The start state on that map. -/
def mixed : State := { start with memMap := mixedMap }

theorem test_regions_at_their_edges :
    mixedMap.regionAt 0x9EFF = .ram ∧ mixedMap.regionAt 0x9F00 = .device ∧ mixedMap.regionAt 0x9FFF = .device ∧
    mixedMap.regionAt 0xA000 = .unmapped ∧ mixedMap.regionAt 0xBFFF = .unmapped ∧ mixedMap.regionAt 0xC000 = .rom ∧
    mixedMap.regionAt 0xFFFF = .rom := by decide +kernel

theorem test_writes_by_region :
    (busWrite 0x9EFF#16 0x12#8 mixed).mem = [(0x9EFF, 0x12#8)] ∧ busWrite 0xA000#16 0x12#8 mixed = mixed ∧
    busWrite 0xC000#16 0x12#8 mixed = mixed ∧
    (busWrite 0x9F00#16 0x12#8 mixed).deviceLog = [.write 0x9F00#16 0x12#8] := by decide +kernel

/-- Writing the byte an unlisted address reads as removes the entry. -/
theorem test_memory_is_canonical :
    (Memory.write [(1, 0x12#8), (5, 0x34#8)] 3 0x56#8) = [(1, 0x12#8), (3, 0x56#8), (5, 0x34#8)] ∧
    (Memory.write [(1, 0x12#8), (5, 0x34#8)] 5 0x00#8) = [(1, 0x12#8)] := by decide +kernel

/-! ## Cycle counts (70_reset_and_hazards.md R268, R269) -/

theorem test_cycles :
    partCycles (.lda (.mem (.absX 0x44F0#16))) { start with x := 0x20#8 } = 5 ∧ partCycles (.lda (.mem (.absX 0x4400#16))) start = 4 ∧
    partCycles (.jmp (.ind 0x4400#16)) start = 6 ∧ partCycles .brk start = 7 := by decide +kernel

/-! ## Witnesses: a state and operands that meet the hypotheses of a statement -/

theorem test_witness_DecodeGivesBackEncodedInstruction :
    Instr.WellFormed (.lda (.imm 0xFF#8)) ∧ Instr.WellFormed (.jmp (.absX 0xFFFF#16)) ∧
    Instr.WellFormed (.reserved 0xFC#8 [0xFF#8, 0xFF#8]) ∧ Instr.WellFormed (.reserved 0x03#8 []) := by decide +kernel

theorem test_witness_DecodedBytesAreTheEncoding :
    decode [0xB1#8, 0x44#8, 0x99#8] = .ok (.lda (.mem (.indY 0x44#8)), [0x99#8]) ∧ (encode (.ldx (.mem (.absX 0x4400#16)))).isSome = false :=
  ⟨rfl, rfl⟩

theorem test_witness_DecoderRejectsOnlyTruncatedBytes : decode [0x20#8, 0x00#8] = .error (.truncated 0x20#8) := rfl

theorem test_witness_OpcodeByteTellsTheLength :
    reservedLength 0x02#8 = some 2 ∧ reservedLength 0xF4#8 = some 2 ∧ reservedLength 0x5C#8 = some 3 ∧ reservedLength 0xFC#8 = some 3 ∧
    reservedLength 0x03#8 = some 1 ∧ reservedLength 0xFB#8 = some 1 ∧ reservedLength 0x00#8 = none ∧ reservedLength 0xFF#8 = none ∧
    reservedLength 0xCB#8 = none ∧ reservedLength 0x20#8 = none := by decide +kernel

/-- NOP at $0200. -/
def nopState : State := loadBytes 0x0200#16 [0xEA#8] start

theorem test_witness_EveryStepKeepsInvariant : nopState.Inv ∧ ∃ t, step nopState = .next t :=
  ⟨⟨by decide +kernel, by decide, by decide⟩, _, rfl⟩

theorem test_witness_EveryStepKeepsInvariant_waiting :
    ({ start with waiting := true } : State).Inv ∧ ∃ t, step { start with waiting := true } = .next t :=
  ⟨⟨by decide, by decide, by decide⟩, _, rfl⟩

theorem test_witness_OnlyRamChangesAndTheMapStays : (∃ t, step mixed = .next t) ∧ ¬ mixed.isRam 0xC000#16 ∧ ¬ mixed.isRam 0x9F00#16 :=
  ⟨⟨_, rfl⟩, (by decide : mixedMap.regionAt 0xC000 ≠ .ram), (by decide : mixedMap.regionAt 0x9F00 ≠ .ram)⟩

theorem test_witness_DeviceAccessesAreOnlyAdded : ∃ t, step nopState = .next t := ⟨_, rfl⟩

theorem test_witness_StepRunsTheDecodedInstruction :
    nopState.Quiet ∧ nopState.isPlain nopState.pc ∧ nopState.isPlain (nopState.pc + 1) ∧ nopState.isPlain (nopState.pc + 2) ∧
    decode [nopState.byteAt nopState.pc, nopState.byteAt (nopState.pc + 1), nopState.byteAt (nopState.pc + 2)] =
      .ok (.nop, [0x00#8, 0x00#8]) :=
  ⟨⟨rfl, rfl, rfl, rfl, rfl⟩, rfl, rfl, rfl, rfl⟩

/-- A running state in which a reset event, an NMI edge and an asserted line come together, and one in which nothing comes. -/
theorem test_witness_BoundaryCheckFollowsPriority :
    (start.waiting = false ∧ start.stopped = false ∧ start.maskEdge = false ∧ (nextInputs start).resetInside = false) ∧
    (let s := { start with inputs := [{ irqLine := true, nmiEdge := true, reset := true }] }
     s.waiting = false ∧ s.stopped = false ∧ s.maskEdge = false ∧ (nextInputs s).resetInside = false ∧
     (nextInputs s).reset = true ∧ (sampleInputs s).nmiPending = true ∧ (sampleInputs s).irqLine = true) := by decide

theorem test_witness_InputsSetLevelAndPendingEdge :
    ({ start with inputs := [line true, line false] } : State).inputs = line true :: [line false] ∧ start.inputs = [] := ⟨rfl, rfl⟩

theorem test_witness_MaskEdgeOnlyAfterCliSeiPlp :
    start.maskEdge = false ∧ (∃ t, exec .cli start = .next t) ∧ (∃ t, exec .sei start = .next t) ∧ (∃ t, exec .plp start = .next t) ∧
    ∃ t, exec .rti start = .next t :=
  ⟨rfl, ⟨_, rfl⟩, ⟨_, rfl⟩, ⟨_, rfl⟩, _, rfl⟩

/-- Both clauses: the line inactive, and asserted, after a mask edge. -/
theorem test_witness_MaskEdgeAdmitsBothOutcomes :
    (let s := { start with maskEdge := true }
     s.waiting = false ∧ s.stopped = false ∧ s.maskEdge = true ∧ (nextInputs s).reset = false ∧ (nextInputs s).resetInside = false ∧
     (sampleInputs s).nmiPending = false ∧ (sampleInputs s).irqLine = false) ∧
    (let s := { start with maskEdge := true, irqLine := true }
     s.waiting = false ∧ s.stopped = false ∧ s.maskEdge = true ∧ (nextInputs s).reset = false ∧ (nextInputs s).resetInside = false ∧
     (sampleInputs s).nmiPending = false ∧ (sampleInputs s).irqLine = true) := by decide

/-- Every clause: no reset, a reset at the boundary, a reset inside the step. -/
theorem test_witness_StoppedOnlyResetLeaves :
    (let s := { start with stopped := true }
     s.stopped = true ∧ (nextInputs s).reset = false ∧ (nextInputs s).resetInside = false) ∧
    (let s := { start with stopped := true, inputs := [{ irqLine := false, nmiEdge := false, reset := true }] }
     s.stopped = true ∧ (nextInputs s).reset = true) ∧
    (let s := { start with stopped := true, inputs := [{ irqLine := false, nmiEdge := false, reset := false, resetInside := true }] }
     s.stopped = true ∧ (nextInputs s).resetInside = true) := by decide

theorem test_witness_WaitEndsAsSpecified :
    let s := { start with waiting := true }
    s.waiting = true ∧ s.stopped = false ∧ (nextInputs s).resetInside = false := by decide

/-- The stack at the bottom of its page, where S wraps; a byte outside RAM; a vector in ROM. -/
theorem test_witness_ExceptionEntryPushesFrameAndVectors :
    ({ start with sp := 0x00#8 } : State).StackInRam ∧ mixed.StackInRam ∧ ¬ mixed.isRam 0xFFFF#16 ∧
    ∀ c : Cause, mixed.isPlain c.vector ∧ mixed.isPlain (c.vector + 1) :=
  ⟨⟨rfl, rfl, rfl⟩, ⟨rfl, rfl, rfl⟩, (by decide : mixedMap.regionAt 0xFFFF ≠ .ram), fun c => by cases c <;> exact ⟨rfl, rfl⟩⟩

theorem test_witness_BrkTakesItsException : mixed.StackInRam ∧ mixed.isPlain 0xFFFE#16 ∧ mixed.isPlain 0xFFFF#16 :=
  ⟨⟨rfl, rfl, rfl⟩, rfl, rfl⟩

/-- The frame at the top of the page, where S wraps. -/
theorem test_witness_RtiPullsFlagsAndPc : mixed.FramePlain ∧ ({ mixed with sp := 0xFD#8 } : State).FramePlain :=
  ⟨⟨rfl, rfl, rfl⟩, ⟨rfl, rfl, rfl⟩⟩

theorem test_witness_RtiUndoesAnEntry :
    ({ mixed with sp := 0x01#8 } : State).StackInRam ∧ mixed.isPlain Cause.irq.vector ∧ mixed.isPlain (Cause.irq.vector + 1) :=
  ⟨⟨rfl, rfl, rfl⟩, rfl, rfl⟩

theorem test_witness_ResetEventRunsTheResetSequence :
    let s := { mixed with inputs := [{ irqLine := false, nmiEdge := false, reset := true }] }
    (nextInputs s).reset = true ∧ (nextInputs s).resetInside = false ∧ s.isPlain 0xFFFC#16 ∧ s.isPlain 0xFFFD#16 :=
  ⟨rfl, rfl, rfl, rfl⟩

/-- A store of the byte that RAM holds already, cut short: the byte at $0044 is one that was being written, $0045 is not. -/
theorem test_witness_ResetInsideAStepCutsItShort :
    let s := { storing with inputs := [{ irqLine := false, nmiEdge := false, reset := false, resetInside := true }] }
    (nextInputs s).resetInside = true ∧ (∃ t, completeStep s = .next t) ∧ s.isPlain 0xFFFC#16 ∧ s.isPlain 0xFFFD#16 ∧
    stepWrites s = [0x0044#16] ∧ s.isRam 0x0044#16 ∧ 0x0045#16 ∉ stepWrites s :=
  ⟨rfl, ⟨_, rfl⟩, rfl, rfl, (by decide +kernel), rfl, (by decide +kernel)⟩

theorem test_witness_StatusImageRoundTrip : (0x30#8 &&& 0xCF#8 : Byte) = 0x00#8 &&& 0xCF#8 := by decide

/-- Pointers at the end of page zero, in RAM. -/
theorem test_witness_EffectiveAddressesOfIndexedModes :
    start.isPlain ((0xFF#8 + start.x).setWidth 16) ∧ start.isPlain ((0xFF#8 + start.x + 1).setWidth 16) ∧
    start.isPlain ((0xFF#8 : Byte).setWidth 16) ∧ start.isPlain ((0xFF#8 + 1 : Byte).setWidth 16) := ⟨rfl, rfl, rfl, rfl⟩

theorem test_witness_OperandValueAndOtherModes :
    start.isPlain ((0xFF#8 : Byte).setWidth 16) ∧ start.isPlain ((0xFF#8 + 1 : Byte).setWidth 16) ∧
    (effAddr (.absX 0xFFFF#16) start).2 = start ∧ start.isPlain (effAddr (.absX 0xFFFF#16) start).1 := ⟨rfl, rfl, rfl, rfl⟩

theorem test_witness_ReadsByRegion :
    mixed.memMap.regionAt (0x9EFF#16 : Word).toNat = .ram ∧ mixed.memMap.regionAt (0xC000#16 : Word).toNat = .rom ∧
    mixed.memMap.regionAt (0xFFFF#16 : Word).toNat = .rom ∧ mixed.memMap.regionAt (0x9F00#16 : Word).toNat = .device ∧
    mixed.memMap.regionAt (0x9FFF#16 : Word).toNat = .device ∧ mixed.memMap.regionAt (0xA000#16 : Word).toNat = .unmapped ∧
    mixed.memMap.regionAt (0xBFFF#16 : Word).toNat = .unmapped := by decide

/-- The three outcomes of a byte handed to an address, for the statements that say ChangesByte: RAM, ROM, a device. -/
theorem test_witness_ChangesByte :
    mixed.isRam (effAddr (.abs 0x0000#16) mixed).1 ∧ mixed.isRam (effAddr (.abs 0x9EFF#16) mixed).1 ∧
    ¬ mixed.isRam (effAddr (.abs 0xFFFF#16) mixed).1 ∧
    mixed.memMap.regionAt (effAddr (.abs 0x9F00#16) mixed).1.toNat = .device :=
  ⟨rfl, rfl, (by decide : mixedMap.regionAt 0xFFFF ≠ .ram), rfl⟩

theorem test_witness_PushThenPullRestores :
    start.isRam (stackAddr start.sp) ∧ ({ start with sp := 0x00#8 } : State).isRam (stackAddr 0x00#8) := ⟨rfl, rfl⟩

theorem test_witness_BinaryAddWithCarry : start.p.d = false := rfl

theorem test_witness_BinarySubtractWithBorrow : start.p.d = false := rfl

/-- A state in decimal mode with a byte in A. -/
def decimal (a : Byte) : State := { start with a := a, p := { start.p with d := true } }

theorem test_witness_DecimalAddOfValidBcd :
    (decimal 0x99#8).p.d = true ∧ validBcd (decimal 0x99#8).a = true ∧ validBcd (readOperand (.imm 0x99#8) (decimal 0x99#8)).1 = true ∧
    validBcd (decimal 0x00#8).a = true := by decide

theorem test_witness_DecimalSubtractOfValidBcd :
    (decimal 0x00#8).p.d = true ∧ validBcd (decimal 0x00#8).a = true ∧ validBcd (readOperand (.imm 0x99#8) (decimal 0x00#8)).1 = true := by
  decide

theorem test_witness_DecimalOfInvalidBcdCompletes :
    (decimal 0x0A#8).p.d = true ∧ (validBcd (decimal 0x0A#8).a && validBcd (readOperand (.imm 0x00#8) (decimal 0x0A#8)).1) = false ∧
    (validBcd (decimal 0x99#8).a && validBcd (readOperand (.imm 0xA0#8) (decimal 0x99#8)).1) = false := by decide

/-- A pointer in the last byte of the address space. -/
theorem test_witness_JumpTargets :
    start.isPlain 0xFFFF#16 ∧ start.isPlain (0xFFFF#16 + 1) ∧ start.isPlain (0xFFFF#16 + start.x.setWidth 16) ∧
    start.isPlain (0xFFFF#16 + start.x.setWidth 16 + 1) := ⟨rfl, rfl, rfl, rfl⟩

theorem test_witness_JsrPushesReturnAddressMinusOne :
    ({ start with sp := 0x00#8 } : State).isRam (stackAddr 0x00#8) ∧ ({ start with sp := 0x00#8 } : State).isRam (stackAddr (0x00#8 - 1)) :=
  ⟨rfl, rfl⟩

theorem test_witness_RtsContinuesAfterPulledAddress :
    ({ start with sp := 0xFE#8 } : State).isPlain (stackAddr (0xFE#8 + 1)) ∧ ({ start with sp := 0xFE#8 } : State).isPlain (stackAddr (0xFE#8 + 2)) :=
  ⟨rfl, rfl⟩

theorem test_witness_RtsUndoesJsr : start.isRam (stackAddr start.sp) ∧ start.isRam (stackAddr (start.sp - 1)) := ⟨rfl, rfl⟩

/-- A reserved byte of each length at a quiet boundary. -/
theorem test_witness_ReservedBytesDoNothing :
    ∀ c ∈ [(0x03#8, 1), (0x02#8, 2), (0x5C#8, 3)],
      let s := loadBytes 0x0200#16 [c.1] start
      s.inputs = [] ∧ s.irqLine = false ∧ s.nmiPending = false ∧ s.waiting = false ∧ s.stopped = false ∧
      plainAt s.memMap s.pc = true ∧ plainAt s.memMap (s.pc + 1) = true ∧ plainAt s.memMap (s.pc + 2) = true ∧
      reservedLength (s.byteAt s.pc) = some c.2 := by decide +kernel

theorem test_witness_FlagsHaveOnlyTheirWriters : ∃ t, exec .txs start = .next t := ⟨_, rfl⟩

theorem test_witness_RegistersHaveOnlyTheirWriters : ∃ t, exec (.cmp (.imm 0x44#8)) start = .next t := ⟨_, rfl⟩

/-! ## The text of an instruction: the examples of 30_encoding.md R92 -/

theorem test_text_no_operand : instrText 0x0210#16 .clc = some "CLC" ∧ instrText 0x0210#16 (.asl .acc) = some "ASL" := by decide +kernel
theorem test_text_immediate : instrText 0x0210#16 (.adc (.imm 0x44#8)) = some "ADC #$44" := by decide +kernel
theorem test_text_zeroPageY : instrText 0x0210#16 (.ldx (.mem (.zpY 0x44#8))) = some "LDX $44,Y" := by decide +kernel
theorem test_text_absoluteX : instrText 0x0210#16 (.adc (.mem (.absX 0x4400#16))) = some "ADC $4400,X" := by decide +kernel
theorem test_text_indirectX : instrText 0x0210#16 (.adc (.mem (.indX 0x44#8))) = some "ADC ($44,X)" := by decide +kernel
theorem test_text_indirectY : instrText 0x0210#16 (.adc (.mem (.indY 0x44#8))) = some "ADC ($44),Y" := by decide +kernel
theorem test_text_zeroPageIndirect : instrText 0x0210#16 (.adc (.mem (.zpInd 0x44#8))) = some "ADC ($44)" := by decide +kernel
theorem test_text_jmp_absoluteIndirectX : instrText 0x0210#16 (.jmp (.absX 0x4400#16)) = some "JMP ($4400,X)" := by decide +kernel
theorem test_text_bbr3 : instrText 0x0210#16 (.bbr3 0x44#8 0xFE#8) = some "BBR3 $44,$020E" := by decide +kernel

end Sys2Proof.Tests
end

namespace Sys2Proof

/-! ## The decoder, cell by cell of the opcode map

A cell holds a function of its operand bytes. `Row.instr` hands it two bytes, of which a shorter cell takes fewer, so that the
decoder and the fetch can each be said in one equation, whatever the length. -/

/-- The instruction of a cell of the opcode map whose opcode byte is followed by `b1` and `b2`. -/
def Row.instr (r : Row) (b1 b2 : Byte) : Instr :=
  match r with
  | .one i => i
  | .two f => f b1
  | .three f => f b1 b2

/-- Three bytes or more always decode, to the instruction of the opcode byte's cell (R52, R53). -/
theorem decode_cons_cons_cons (op b1 b2 : Byte) (rest : List Byte) :
    decode (op :: b1 :: b2 :: rest) =
      .ok ((rowOf op).instr b1 b2, (op :: b1 :: b2 :: rest).drop (rowOf op).length) := by
  cases h : rowOf op <;> simp only [decode, h] <;> rfl

/-- Each cell of the opcode map holds an instruction as long as the cell is, whatever its operand bytes (R52, R90): row by
row of the map, the lengths compute without a look at the operands. -/
theorem opcodeMap_instr_length (b1 b2 : Byte) :
    opcodeMap.map (fun r => (r.instr b1 b2).length) = opcodeMap.map Row.length := by
  simp only [opcodeMap, List.map_append]
  iterate 15 refine congrArg₂ (· ++ ·) ?_ rfl
  rfl

theorem opcodeMap_length : opcodeMap.length = 256 := by
  simp only [opcodeMap, List.length_append]
  rfl

/-- The map covers every byte: the default of `rowOf` is never read (R53). -/
theorem rowOf_mem_opcodeMap (op : Byte) : rowOf op ∈ opcodeMap := by
  have h : op.toNat < opcodeMap.length := opcodeMap_length ▸ op.isLt
  rw [rowOf, List.getD_eq_getElem _ _ h]
  exact List.getElem_mem h

/-- The opcode byte tells the length of the instruction it begins (R52). -/
theorem rowOf_instr_length (op b1 b2 : Byte) : ((rowOf op).instr b1 b2).length = (rowOf op).length :=
  List.map_inj_left.mp (opcodeMap_instr_length b1 b2) _ (rowOf_mem_opcodeMap op)

end Sys2Proof

namespace Sys2Proof.Machine

/-! ## The fetch from plain memory, and a step at a quiet boundary -/

/-- A fetch from RAM or ROM: the instruction that the bytes at PC hold, PC moved over it, and nothing else (R5, R43, R50). -/
theorem fetchInstr_plain {s : State} (h0 : s.isPlain s.pc) (h1 : s.isPlain (s.pc + 1)) (h2 : s.isPlain (s.pc + 2)) :
    fetchInstr s =
      ((rowOf (s.byteAt s.pc)).instr (s.byteAt (s.pc + 1)) (s.byteAt (s.pc + 2)),
        s.setPc (s.pc + BitVec.ofNat 16 (rowOf (s.byteAt s.pc)).length)) := by
  cases h : rowOf (s.byteAt s.pc) <;>
    simp only [fetchInstr, busRead_plain h0, busRead_plain h1, busRead_plain h2, h] <;> rfl

theorem nextInputs_of_quiet {s : State} (h : s.Quiet) : nextInputs s = quietInputs s := by
  rw [nextInputs, h.inputs]; rfl

/-- With no request and no input change, sampling the inputs changes nothing (R231, log 11). -/
theorem sampleInputs_of_quiet {s : State} (h : s.Quiet) : sampleInputs s = s := by
  have inputs : s.inputs.tail = s.inputs := by rw [h.inputs]; rfl
  simp only [sampleInputs, nextInputs_of_quiet h, quietInputs, inputs, Bool.false_and, Bool.or_false]
  rfl

/-- No request takes a quiet boundary: it comes to a fetch, which ends the mask edge (R240, R241, log 12). -/
theorem checkBoundary_of_quiet {s : State} (h : s.Quiet) : checkBoundary s = .fetch (s.setMaskEdge false) := by
  obtain ⟨waiting, stopped⟩ := h.running
  simp [checkBoundary, sampleInputs_of_quiet h, nextInputs_of_quiet h, quietInputs, irqTaken, waiting, stopped, h.irq, h.nmi]

/-- A step at a quiet boundary is the instruction fetched there (R240). -/
theorem step_of_quiet {s : State} (h : s.Quiet) :
    step s = exec (fetchInstr (s.setMaskEdge false)).1 (fetchInstr (s.setMaskEdge false)).2 := by
  have whole : (nextInputs s).resetInside = false := by rw [nextInputs_of_quiet h]; rfl
  simp [step, whole, completeStep, checkBoundary_of_quiet h]

/-- Settles O12: the boundary comes to a fetch, the fetch and the decoder read the same cell of the opcode map, and PC moves by the
cell's length, which is the instruction's. -/
theorem stepRunsTheDecodedInstruction : Obligations.StepRunsTheDecodedInstruction := by
  intro s i rest quiet h0 h1 h2 decodes
  obtain ⟨rfl, -⟩ : (rowOf (s.byteAt s.pc)).instr (s.byteAt (s.pc + 1)) (s.byteAt (s.pc + 2)) = i ∧ _ = rest := by
    simpa only [decode_cons_cons_cons, Except.ok.injEq, Prod.mk.injEq] using decodes
  have fetched : fetchInstr (s.setMaskEdge false) = _ := fetchInstr_plain h0 h1 h2
  rw [step_of_quiet quiet, fetched, rowOf_instr_length]
  rfl

end Sys2Proof.Machine

namespace Sys2Proof.Machine

/-! ## Reset, the inputs of a boundary, the image of P -/

/-- Settles O6: nothing is listed in memory, and the processor neither waits nor is stopped. -/
theorem resetMeetsInvariant : Obligations.ResetMeetsInvariant where
  memory := ⟨.nil, by simp [State.reset]⟩
  oneState := by simp [State.reset]
  noEdge := fun _ => rfl

/-- Settles O11: memory lists no byte at the reset vector, so the word there is $0000, where PC is. -/
theorem resetValuesOfTheSpec : Obligations.ResetValuesOfTheSpec :=
  ⟨(by decide : (0x0000#16 : Word) = word unlistedByte unlistedByte), rfl, rfl, rfl, rfl⟩

/-- With a record left, it is what comes at the boundary (log 11). -/
theorem nextInputs_cons {s : State} {now : Inputs} {later : List Inputs} (h : s.inputs = now :: later) : nextInputs s = now := by
  simp [nextInputs, h]

/-- With no record left, the line holds its level and nothing happens (log 11). -/
theorem nextInputs_nil {s : State} (h : s.inputs = []) : nextInputs s = quietInputs s := by
  simp [nextInputs, h]

/-- Settles O14: the head of the schedule is the record sampled, and an empty schedule is sampled as the quiet record, whose
level is the line's own. -/
theorem inputsSetLevelAndPendingEdge : Obligations.InputsSetLevelAndPendingEdge := by
  refine fun s => ⟨fun now later h => ⟨nextInputs_cons h, ?_⟩, fun h => ⟨nextInputs_nil h, ?_⟩⟩
  · rw [sampleInputs, nextInputs_cons h, h]
    rfl
  · have still : s.inputs.tail = s.inputs := by rw [h]; rfl
    simp only [sampleInputs, nextInputs_nil h, quietInputs, still, Bool.false_and, Bool.or_false]
    rfl

/-- The bits of the image of P: `N:V:1:b:D:I:Z:C` (R15). -/
theorem Flags.image_bits (p : Flags) (b : Bool) :
    (p.image b).getLsbD 7 = p.n ∧ (p.image b).getLsbD 6 = p.v ∧ (p.image b).getLsbD 5 = true ∧ (p.image b).getLsbD 4 = b ∧
    (p.image b).getLsbD 3 = p.d ∧ (p.image b).getLsbD 2 = p.i ∧ (p.image b).getLsbD 1 = p.z ∧ (p.image b).getLsbD 0 = p.c := by
  simp only [Flags.image, BitVec.getLsbD_append, BitVec.getLsbD_ofBool]
  simp

/-- A load of P does not look at bits 5 and 4 (R15). -/
theorem Flags.ofByte_and_flagBits (v : Byte) : Flags.ofByte (v &&& 0xCF#8) = Flags.ofByte v := by
  simp [Flags.ofByte, bitOf]

/-- The image of flags loaded from a byte is that byte with bit 5 set and the given bit 4 (R15). -/
theorem Flags.image_ofByte (v : Byte) : (Flags.ofByte v).image (v.getLsbD 4) = v ||| 0x20#8 := by
  obtain ⟨h7, h6, h5, h4, h3, h2, h1, h0⟩ := (Flags.ofByte v).image_bits (v.getLsbD 4)
  apply BitVec.eq_of_getLsbD_eq
  intro k hk
  interval_cases k <;> simp only [h7, h6, h5, h4, h3, h2, h1, h0, BitVec.getLsbD_or] <;> simp [Flags.ofByte, bitOf]

/-- Settles O25: the image is known bit by bit, and of a byte loaded only the six flag bits count. -/
theorem statusImageRoundTrip : Obligations.StatusImageRoundTrip := by
  refine ⟨fun p b => ?_, fun v w h => ?_, Flags.image_ofByte⟩
  · obtain ⟨h7, h6, h5, h4, h3, h2, h1, h0⟩ := p.image_bits b
    exact ⟨h7, h6, h5, h4, h3, h2, h1, h0, p.ofByte_image b⟩
  · rw [← Flags.ofByte_and_flagBits v, h, Flags.ofByte_and_flagBits]

end Sys2Proof.Machine

namespace Sys2Proof.Machine

/-! ## What an operation can change

`s.SameBut ws t` says that `t` is `s` but for the listed parts, the device accesses and the draws: the frame of an operation, the
list being what it writes. Frames compose along the definition of an operation, so that each instruction's frame is read off its
meaning once (`exec_sameBut`), and the statements about the writers of a part are read off the list of each instruction. -/

/-- The flags of P by name (10_state.md R14). -/
inductive Flag where
  | n | v | d | i | z | c

/-- The flag of a name. -/
def Flags.get (p : Flags) : Flag → Bool
  | .n => p.n
  | .v => p.v
  | .d => p.d
  | .i => p.i
  | .z => p.z
  | .c => p.c

/-- `q` is `p` but for the listed flags. -/
def Flags.SameBut (p : Flags) (fs : List Flag) (q : Flags) : Prop := ∀ f ∉ fs, q.get f = p.get f

/-- The parts of the state: its fields, P flag by flag, without the device accesses and the draws, which every read may change. -/
inductive StatePart where
  | a | x | y | sp | pc | flag (f : Flag) | mem | memMap | nmiPending | waiting | stopped | irqLine | maskEdge | inputs

/-- What a part holds. -/
def StatePart.Val : StatePart → Type
  | .a | .x | .y | .sp => Byte
  | .pc => Word
  | .mem => Memory
  | .memMap => MemoryMap
  | .inputs => List Inputs
  | .flag _ | .nmiPending | .waiting | .stopped | .irqLine | .maskEdge => Bool

/-- The part of a state. -/
def State.get (s : State) : (r : StatePart) → r.Val
  | .a => s.a
  | .x => s.x
  | .y => s.y
  | .sp => s.sp
  | .pc => s.pc
  | .flag f => s.p.get f
  | .mem => s.mem
  | .memMap => s.memMap
  | .nmiPending => s.nmiPending
  | .waiting => s.waiting
  | .stopped => s.stopped
  | .irqLine => s.irqLine
  | .maskEdge => s.maskEdge
  | .inputs => s.inputs

/-- `t` is `s` but for the listed parts, the device accesses and the draws. -/
def State.SameBut (s : State) (ws : List StatePart) (t : State) : Prop := ∀ r ∉ ws, t.get r = s.get r

/-! ### Frames compose -/

theorem State.SameBut.refl (s : State) (ws : List StatePart) : s.SameBut ws s := fun _ _ => rfl

/-- One operation after another: the second may change some of the parts listed. -/
theorem State.SameBut.trans {s t u : State} {ws vs : List StatePart} (h : s.SameBut ws t) (k : t.SameBut vs u)
    (sub : vs ⊆ ws := by simp) : s.SameBut ws u :=
  fun r hr => (k r fun m => hr (sub m)).trans (h r hr)

theorem State.SameBut.mono {s t : State} {ws vs : List StatePart} (h : s.SameBut vs t) (sub : vs ⊆ ws := by simp) : s.SameBut ws t :=
  (State.SameBut.refl s ws).trans h sub

/-- Reads change no part. -/
theorem State.SameButReads.sameBut {s t : State} (h : s.SameButReads t) (ws : List StatePart) : s.SameBut ws t := fun r _ => by
  rw [h]; cases r <;> rfl

/-! ### The update of one field: every other part is the same by computation -/

theorem State.setA_sameBut (s : State) (v : Byte) : s.SameBut [.a] (s.setA v) := fun r hr => by
  cases r <;> first | rfl | simp at hr
theorem State.setX_sameBut (s : State) (v : Byte) : s.SameBut [.x] (s.setX v) := fun r hr => by
  cases r <;> first | rfl | simp at hr
theorem State.setY_sameBut (s : State) (v : Byte) : s.SameBut [.y] (s.setY v) := fun r hr => by
  cases r <;> first | rfl | simp at hr
theorem State.setSp_sameBut (s : State) (v : Byte) : s.SameBut [.sp] (s.setSp v) := fun r hr => by
  cases r <;> first | rfl | simp at hr
theorem State.setPc_sameBut (s : State) (v : Word) : s.SameBut [.pc] (s.setPc v) := fun r hr => by
  cases r <;> first | rfl | simp at hr
theorem State.setMem_sameBut (s : State) (v : Memory) : s.SameBut [.mem] (s.setMem v) := fun r hr => by
  cases r <;> first | rfl | simp at hr
theorem State.setWaiting_sameBut (s : State) (v : Bool) : s.SameBut [.waiting] (s.setWaiting v) := fun r hr => by
  cases r <;> first | rfl | simp at hr
theorem State.setStopped_sameBut (s : State) (v : Bool) : s.SameBut [.stopped] (s.setStopped v) := fun r hr => by
  cases r <;> first | rfl | simp at hr
theorem State.setMaskEdge_sameBut (s : State) (v : Bool) : s.SameBut [.maskEdge] (s.setMaskEdge v) := fun r hr => by
  cases r <;> first | rfl | simp at hr

/-- A write of P changes what the flags written differ in. -/
theorem State.setP_sameBut {s : State} {fs : List Flag} {q : Flags} (h : s.p.SameBut fs q) :
    s.SameBut (fs.map .flag) (s.setP q) := fun r hr => by
  cases r with
  | flag f => exact h f fun m => hr (List.mem_map_of_mem m)
  | _ => rfl

/-! ### Flag computations -/

theorem Flags.sameBut_iff {p q : Flags} {fs : List Flag} :
    p.SameBut fs q ↔
      (.n ∈ fs ∨ q.n = p.n) ∧ (.v ∈ fs ∨ q.v = p.v) ∧ (.d ∈ fs ∨ q.d = p.d) ∧ (.i ∈ fs ∨ q.i = p.i) ∧
      (.z ∈ fs ∨ q.z = p.z) ∧ (.c ∈ fs ∨ q.c = p.c) := by
  simp only [or_iff_not_imp_left]
  exact ⟨fun h => ⟨h .n, h .v, h .d, h .i, h .z, h .c⟩, fun ⟨n, v, d, i, z, c⟩ f => by cases f <;> assumption⟩

theorem Flags.setNZ_sameBut (p : Flags) (v : Byte) : p.SameBut [.n, .z] (p.setNZ v) := by simp [sameBut_iff, setNZ]

theorem Flags.compare_sameBut (p : Flags) (r m : Byte) : p.SameBut [.n, .z, .c] (p.compare r m) := by
  simp [sameBut_iff, compare]

theorem Flags.testZ_sameBut (p : Flags) (a m : Byte) : p.SameBut [.z] (p.testZ a m) := by simp [sameBut_iff, testZ]

theorem Flags.bitTest_sameBut (p : Flags) (a m : Byte) : p.SameBut [.n, .v, .z] (p.bitTest a m) := by
  simp [sameBut_iff, bitTest, testZ]

theorem Flags.ofSum_sameBut (p : Flags) (r : Sum) : p.SameBut [.n, .v, .z, .c] (p.ofSum r) := by
  simp [sameBut_iff, ofSum, setNZ]

theorem aslOp_sameBut (m : Byte) (p : Flags) : p.SameBut [.n, .z, .c] (aslOp m p).2 := by
  simp [Flags.sameBut_iff, aslOp_eq]

theorem lsrOp_sameBut (m : Byte) (p : Flags) : p.SameBut [.n, .z, .c] (lsrOp m p).2 := by
  simp [Flags.sameBut_iff, lsrOp_eq]

theorem rolOp_sameBut (m : Byte) (p : Flags) : p.SameBut [.n, .z, .c] (rolOp m p).2 := by
  simp [Flags.sameBut_iff, rolOp_eq]

theorem rorOp_sameBut (m : Byte) (p : Flags) : p.SameBut [.n, .z, .c] (rorOp m p).2 := by
  simp [Flags.sameBut_iff, rorOp_eq]

theorem incOp_sameBut (m : Byte) (p : Flags) : p.SameBut [.n, .z] (incOp m p).2 := p.setNZ_sameBut _

theorem decOp_sameBut (m : Byte) (p : Flags) : p.SameBut [.n, .z] (decOp m p).2 := p.setNZ_sameBut _

theorem trbOp_sameBut (a m : Byte) (p : Flags) : p.SameBut [.z] (trbOp a m p).2 := p.testZ_sameBut a m

theorem tsbOp_sameBut (a m : Byte) (p : Flags) : p.SameBut [.z] (tsbOp a m p).2 := p.testZ_sameBut a m

theorem rmbOp_sameBut (n : Nat) (m : Byte) (p : Flags) : p.SameBut [] (rmbOp n m p).2 := fun _ _ => rfl

theorem smbOp_sameBut (n : Nat) (m : Byte) (p : Flags) : p.SameBut [] (smbOp n m p).2 := fun _ _ => rfl

/-! ### Shared operations -/

theorem busWrite_sameBut (a : Word) (v : Byte) (s : State) : s.SameBut [.mem] (busWrite a v s) := by
  rcases busWrite_cases a v s with ⟨-, e⟩ | ⟨-, e⟩ | ⟨-, e⟩ <;> rw [e]
  · exact s.setMem_sameBut _
  · exact State.SameButReads.sameBut (t := s.setDeviceLog _) rfl _
  · exact .refl s _

theorem store_sameBut (m : MemArg) (v : Byte) (s : State) : s.SameBut [.mem] (store m v s) :=
  ((effAddr_same m s).sameBut _).trans (busWrite_sameBut _ v _)

theorem push8_sameBut (v : Byte) (s : State) : s.SameBut [.mem, .sp] (push8 v s) :=
  (busWrite_sameBut _ v s).mono.trans (State.setSp_sameBut _ _)

theorem push16_sameBut (w : Word) (s : State) : s.SameBut [.mem, .sp] (push16 w s) :=
  (push8_sameBut _ s).trans (push8_sameBut _ _)

theorem pull8_sameBut (s : State) : s.SameBut [.sp] (pull8 s).2 :=
  (s.setSp_sameBut _).trans ((pull8_same s).sameBut [])

theorem pull16_sameBut (s : State) : s.SameBut [.sp] (pull16 s).2 :=
  (pull8_sameBut s).trans (pull8_sameBut _)

theorem setNZ_sameBut (v : Byte) (s : State) : s.SameBut [.flag .n, .flag .z] (setNZ v s) :=
  s.setP_sameBut (s.p.setNZ_sameBut v)

theorem branchIf_sameBut (taken : Bool) (d : Byte) (s : State) : s.SameBut [.pc] (branchIf taken d s) := by
  rcases branchIf_cases taken d s with ⟨-, e⟩ | ⟨-, e⟩ <;> rw [e]
  · exact s.setPc_sameBut _
  · exact .refl s _

theorem branchOnBit_sameBut (n : Nat) (want : Bool) (z d : Byte) (s : State) : s.SameBut [.pc] (branchOnBit n want z d s) :=
  ((busRead_same _ s).sameBut _).trans (branchIf_sameBut _ d _)

theorem jumpThrough_sameBut (ptr : Word) (s : State) : s.SameBut [.pc] (jumpThrough ptr s) :=
  ((read16_same ptr s).sameBut _).trans (State.setPc_sameBut _ _)

/-- The part that a read-modify-write instruction writes besides flags (R140). -/
def modPart : ModArg → StatePart
  | .acc => .a
  | .mem _ => .mem

@[simp] theorem modPart_acc : modPart .acc = .a := rfl
@[simp] theorem modPart_mem (m : MemArg) : modPart (.mem m) = .mem := rfl
@[simp] theorem modPart_ne_flag (o : ModArg) (f : Flag) : .flag f ≠ modPart o := by cases o <;> simp

theorem modifyOperand_sameBut {op : Byte → Flags → Byte × Flags} {fs : List Flag}
    (h : ∀ (m : Byte) (p : Flags), p.SameBut fs (op m p).2) (o : ModArg) (s : State) :
    s.SameBut (modPart o :: fs.map .flag) (modifyOperand o op s) := by
  rcases modifyOperand_cases o op s with ⟨rfl, e⟩ | ⟨m, t, v, rfl, same, -, e⟩ <;> rw [e]
  · exact (s.setA_sameBut _).mono.trans (State.setP_sameBut (h s.a s.p))
  · have written : s.SameBut [.mem] (busWrite (effAddr m s).1 (op v s.p).1 t) :=
      (same.sameBut _).trans (busWrite_sameBut _ _ t)
    have flags : (busWrite (effAddr m s).1 (op v s.p).1 t).p = s.p := by simp [same.p_eq]
    exact written.mono.trans (State.setP_sameBut (by rw [flags]; exact h v s.p))

/-- An operand is read, then a value goes to a register and its N and Z to P: the loads, AND, EOR, ORA and the transfers. -/
theorem setNZ_setA_sameBut {s u : State} (h : s.SameButReads u) (v : Byte) :
    s.SameBut [.a, .flag .n, .flag .z] (setNZ v (u.setA v)) :=
  ((h.sameBut _).trans (u.setA_sameBut v)).trans (setNZ_sameBut v _)

theorem setNZ_setX_sameBut {s u : State} (h : s.SameButReads u) (v : Byte) :
    s.SameBut [.x, .flag .n, .flag .z] (setNZ v (u.setX v)) :=
  ((h.sameBut _).trans (u.setX_sameBut v)).trans (setNZ_sameBut v _)

theorem setNZ_setY_sameBut {s u : State} (h : s.SameButReads u) (v : Byte) :
    s.SameBut [.y, .flag .n, .flag .z] (setNZ v (u.setY v)) :=
  ((h.sameBut _).trans (u.setY_sameBut v)).trans (setNZ_sameBut v _)

/-- An operand is read, then only P is written: BIT and the compares. -/
theorem readThenSetP_sameBut {s u : State} (h : s.SameButReads u) {fs : List Flag} {q : Flags} (hq : u.p.SameBut fs q) :
    s.SameBut (fs.map .flag) (u.setP q) :=
  (h.sameBut _).trans (State.setP_sameBut hq) fun _ m => m

theorem setSum_sameBut (r : Sum) (s : State) : s.SameBut [.a, .flag .n, .flag .v, .flag .z, .flag .c] (setSum r s) :=
  (s.setA_sameBut r.value).mono.trans (State.setP_sameBut (s.p.ofSum_sameBut r))

theorem addOrSubtract_sameBut {binary decimal : Byte → Byte → Bool → Sum} {m : Byte} {s t : State}
    (h : addOrSubtract binary decimal m s = .next t) : s.SameBut [.a, .flag .n, .flag .v, .flag .z, .flag .c] t := by
  simp only [addOrSubtract, decimalSum, Config.decimalPolicy] at h
  split at h
  · split at h <;> cases h
    · exact ((drawBit_same s).sameBut _).trans (setSum_sameBut _ _)
    · have drawn := (draw_same s).trans (draw_same (draw s).2)
      refine ((drawn.sameBut _).trans (State.setA_sameBut _ _)).trans
        (State.setP_sameBut (fs := [.n, .v, .z, .c]) ?_)
      simp [Flags.sameBut_iff]
  · cases h
    exact setSum_sameBut _ s

/-- A write of P with the mask edge of R241. -/
theorem setPWithEdge_sameBut {s : State} {fs : List Flag} {q : Flags} (h : s.p.SameBut fs q) :
    s.SameBut (.maskEdge :: fs.map .flag) (setPWithEdge q s) :=
  (State.setP_sameBut h).mono.trans (State.setMaskEdge_sameBut _ _)

/-- An exception entry other than NMI's, which also ends the pending edge (R236). -/
theorem enterException_sameBut {c : Cause} (h : c ≠ .nmi) (ret : Word) (s : State) :
    s.SameBut [.mem, .sp, .pc, .flag .d, .flag .i, .waiting, .maskEdge] (enterException c ret s) := by
  simp only [enterException, h, if_false]
  have pushed := (push16_sameBut ret s).trans (push8_sameBut (s.p.image c.bBit) _)
  have masked (u : State) : u.SameBut [.flag .d, .flag .i] (u.setP { u.p with i := true, d := false }) :=
    State.setP_sameBut (fs := [.d, .i]) (by simp [Flags.sameBut_iff])
  exact ((((pushed.mono.trans (masked _)).trans (State.setWaiting_sameBut _ _)).trans (State.setMaskEdge_sameBut _ _)).trans
    ((read16_same _ _).sameBut [])).trans (State.setPc_sameBut _ _)

/-- Every flag may be written. -/
theorem Flags.sameBut_all (p q : Flags) : p.SameBut [.n, .v, .d, .i, .z, .c] q := by simp [sameBut_iff]

theorem returnFromException_sameBut (s : State) :
    s.SameBut [.sp, .pc, .flag .n, .flag .v, .flag .d, .flag .i, .flag .z, .flag .c] (returnFromException s) :=
  (((pull8_sameBut s).mono.trans (State.setP_sameBut (Flags.sameBut_all _ _))).trans (pull16_sameBut _)).trans
    (State.setPc_sameBut _ _)

/-! ### Instructions -/

/-- The parts that an instruction is a writer of, PC beyond the advance (10_state.md R11 to R13, R17, R18, 20_memory.md R35). -/
@[simp] def writes : Instr → List StatePart
  | .lda _ | .and _ | .eor _ | .ora _ | .txa | .tya => [.a, .flag .n, .flag .z]
  | .ldx _ | .tax | .tsx | .inx | .dex => [.x, .flag .n, .flag .z]
  | .ldy _ | .tay | .iny | .dey => [.y, .flag .n, .flag .z]
  | .sta _ | .stx _ | .sty _ | .stz _ => [.mem]
  | .txs => [.sp]
  | .pha | .php | .phx | .phy => [.mem, .sp]
  | .pla => [.sp, .a, .flag .n, .flag .z]
  | .plx => [.sp, .x, .flag .n, .flag .z]
  | .ply => [.sp, .y, .flag .n, .flag .z]
  | .plp => [.sp, .maskEdge, .flag .n, .flag .v, .flag .d, .flag .i, .flag .z, .flag .c]
  | .asl o | .lsr o | .rol o | .ror o => [modPart o, .flag .n, .flag .z, .flag .c]
  | .inc o | .dec o => [modPart o, .flag .n, .flag .z]
  | .trb _ | .tsb _ => [.mem, .flag .z]
  | .rmb0 _ | .rmb1 _ | .rmb2 _ | .rmb3 _ | .rmb4 _ | .rmb5 _ | .rmb6 _ | .rmb7 _
  | .smb0 _ | .smb1 _ | .smb2 _ | .smb3 _ | .smb4 _ | .smb5 _ | .smb6 _ | .smb7 _ => [.mem]
  | .bit (.imm _) => [.flag .z]
  | .bit (.mem _) => [.flag .n, .flag .v, .flag .z]
  | .adc _ | .sbc _ => [.a, .flag .n, .flag .v, .flag .z, .flag .c]
  | .cmp _ | .cpx _ | .cpy _ => [.flag .n, .flag .z, .flag .c]
  | .bcc _ | .bcs _ | .beq _ | .bmi _ | .bne _ | .bpl _ | .bvc _ | .bvs _ | .bra _
  | .bbr0 _ _ | .bbr1 _ _ | .bbr2 _ _ | .bbr3 _ _ | .bbr4 _ _ | .bbr5 _ _ | .bbr6 _ _ | .bbr7 _ _
  | .bbs0 _ _ | .bbs1 _ _ | .bbs2 _ _ | .bbs3 _ _ | .bbs4 _ _ | .bbs5 _ _ | .bbs6 _ _ | .bbs7 _ _
  | .jmp _ => [.pc]
  | .jsr _ => [.mem, .sp, .pc]
  | .rts => [.sp, .pc]
  | .rti => [.sp, .pc, .flag .n, .flag .v, .flag .d, .flag .i, .flag .z, .flag .c]
  | .brk => [.mem, .sp, .pc, .flag .d, .flag .i, .waiting, .maskEdge]
  | .stp => [.stopped]
  | .wai => [.waiting]
  | .clc | .sec => [.flag .c]
  | .cld | .sed => [.flag .d]
  | .clv => [.flag .v]
  | .cli | .sei => [.maskEdge, .flag .i]
  | .nop | .reserved _ _ => []

/-- An instruction changes nothing but what it is a writer of, the device accesses and the draws. -/
theorem exec_sameBut {i : Instr} {s t : State} (h : exec i s = .next t) : s.SameBut (writes i) t := by
  cases i
  case adc o | sbc o => exact ((readOperand_same o s).sameBut _).trans (addOrSubtract_sameBut h)
  case jmp o =>
    cases o <;> cases h
    · exact s.setPc_sameBut _
    · exact jumpThrough_sameBut _ s
    · exact jumpThrough_sameBut _ s
  case bit o =>
    cases o <;> cases h
    · exact readThenSetP_sameBut (readOperand_same _ s) (Flags.testZ_sameBut _ _ _)
    · exact readThenSetP_sameBut (readOperand_same _ s) (Flags.bitTest_sameBut _ _ _)
  all_goals cases h
  case lda o | and o | eor o | ora o => exact setNZ_setA_sameBut (readOperand_same o s) _
  case ldx o => exact setNZ_setX_sameBut (readOperand_same o s) _
  case ldy o => exact setNZ_setY_sameBut (readOperand_same o s) _
  case txa | tya => exact setNZ_setA_sameBut (.refl s) _
  case tax | tsx | inx | dex => exact setNZ_setX_sameBut (.refl s) _
  case tay | iny | dey => exact setNZ_setY_sameBut (.refl s) _
  case txs => exact s.setSp_sameBut _
  case sta m | stx m | sty m | stz m => exact store_sameBut m _ s
  case pha | php | phx | phy => exact push8_sameBut _ s
  case pla => exact (pull8_sameBut s).mono.trans (setNZ_setA_sameBut (.refl _) _)
  case plx => exact (pull8_sameBut s).mono.trans (setNZ_setX_sameBut (.refl _) _)
  case ply => exact (pull8_sameBut s).mono.trans (setNZ_setY_sameBut (.refl _) _)
  case plp => exact (pull8_sameBut s).mono.trans (setPWithEdge_sameBut (Flags.sameBut_all _ _))
  case asl o => exact modifyOperand_sameBut aslOp_sameBut o s
  case lsr o => exact modifyOperand_sameBut lsrOp_sameBut o s
  case rol o => exact modifyOperand_sameBut rolOp_sameBut o s
  case ror o => exact modifyOperand_sameBut rorOp_sameBut o s
  case inc o => exact modifyOperand_sameBut incOp_sameBut o s
  case dec o => exact modifyOperand_sameBut decOp_sameBut o s
  case trb m => exact modifyOperand_sameBut (trbOp_sameBut s.a) (.mem m) s
  case tsb m => exact modifyOperand_sameBut (tsbOp_sameBut s.a) (.mem m) s
  case rmb0 z | rmb1 z | rmb2 z | rmb3 z | rmb4 z | rmb5 z | rmb6 z | rmb7 z =>
    exact modifyOperand_sameBut (rmbOp_sameBut _) (.mem (.zp z)) s
  case smb0 z | smb1 z | smb2 z | smb3 z | smb4 z | smb5 z | smb6 z | smb7 z =>
    exact modifyOperand_sameBut (smbOp_sameBut _) (.mem (.zp z)) s
  case cmp o | cpx o | cpy o => exact readThenSetP_sameBut (readOperand_same o s) (Flags.compare_sameBut _ _ _)
  case bcc d | bcs d | beq d | bmi d | bne d | bpl d | bvc d | bvs d | bra d => exact branchIf_sameBut _ d s
  case bbr0 z d | bbr1 z d | bbr2 z d | bbr3 z d | bbr4 z d | bbr5 z d | bbr6 z d | bbr7 z d |
      bbs0 z d | bbs1 z d | bbs2 z d | bbs3 z d | bbs4 z d | bbs5 z d | bbs6 z d | bbs7 z d =>
    exact branchOnBit_sameBut _ _ z d s
  case jsr w => exact (push16_sameBut _ s).mono.trans (State.setPc_sameBut _ w)
  case rts => exact (pull16_sameBut s).mono.trans (State.setPc_sameBut _ _)
  case rti => exact returnFromException_sameBut s
  case brk => exact enterException_sameBut (by simp) _ s
  case stp => exact s.setStopped_sameBut true
  case wai => exact s.setWaiting_sameBut true
  case clc | sec => exact State.setP_sameBut (fs := [.c]) (by simp [Flags.sameBut_iff])
  case cld | sed => exact State.setP_sameBut (fs := [.d]) (by simp [Flags.sameBut_iff])
  case clv => exact State.setP_sameBut (fs := [.v]) (by simp [Flags.sameBut_iff])
  case cli | sei => exact setPWithEdge_sameBut (fs := [.i]) (by simp [Flags.sameBut_iff])
  case nop | reserved => exact .refl s _

/-! ### The writers of each part -/

/-- The flags that are not listed are as before. -/
theorem State.SameBut.flags_eq {s t : State} {ws : List StatePart} (h : s.SameBut ws t) :
    (.flag .n ∉ ws → t.p.n = s.p.n) ∧ (.flag .v ∉ ws → t.p.v = s.p.v) ∧ (.flag .d ∉ ws → t.p.d = s.p.d) ∧
    (.flag .i ∉ ws → t.p.i = s.p.i) ∧ (.flag .z ∉ ws → t.p.z = s.p.z) ∧ (.flag .c ∉ ws → t.p.c = s.p.c) :=
  ⟨h (.flag .n), h (.flag .v), h (.flag .d), h (.flag .i), h (.flag .z), h (.flag .c)⟩

/-- The fields besides P that are not listed are as before. -/
theorem State.SameBut.fields_eq {s t : State} {ws : List StatePart} (h : s.SameBut ws t) :
    (.a ∉ ws → t.a = s.a) ∧ (.x ∉ ws → t.x = s.x) ∧ (.y ∉ ws → t.y = s.y) ∧ (.sp ∉ ws → t.sp = s.sp) ∧
    (.pc ∉ ws → t.pc = s.pc) ∧ (.mem ∉ ws → t.mem = s.mem) ∧
    (.waiting ∉ ws → t.waiting = s.waiting) ∧ (.stopped ∉ ws → t.stopped = s.stopped) ∧
    (.nmiPending ∉ ws → t.nmiPending = s.nmiPending) ∧ (.irqLine ∉ ws → t.irqLine = s.irqLine) ∧
    (.inputs ∉ ws → t.inputs = s.inputs) ∧ (.memMap ∉ ws → t.memMap = s.memMap) :=
  ⟨h .a, h .x, h .y, h .sp, h .pc, h .mem, h .waiting, h .stopped, h .nmiPending, h .irqLine, h .inputs, h .memMap⟩

/-- Settles O59: an instruction changes only what it lists, and R17's writers of a flag are the instructions that list it. -/
theorem flagsHaveOnlyTheirWriters : Obligations.FlagsHaveOnlyTheirWriters := by
  intro i s t h
  have kept := (exec_sameBut h).flags_eq
  cases i
  case plp | rti => simp
  case bit o => cases o <;> simpa using kept
  all_goals simpa using kept

/-- Settles O60: an instruction changes only what it lists, and the writers of a part are the instructions that list it; none
lists nmi_pending, irq_line, the inputs or the map. -/
theorem registersHaveOnlyTheirWriters : Obligations.RegistersHaveOnlyTheirWriters := by
  intro i s t h
  have kept := (exec_sameBut h).fields_eq
  cases i
  case asl o | lsr o | rol o | ror o | inc o | dec o | bit o => cases o <;> simpa using kept
  all_goals simpa using kept

end Sys2Proof.Machine

namespace Sys2Proof.Machine

/-! ## Reads by region -/

theorem busRead_device {a : Word} {s : State} (h : s.memMap.regionAt a.toNat = .device) :
    busRead a s = (Config.freeByte s.draws,
      (s.setDraws (s.draws + 1)).setDeviceLog (.read a (Config.freeByte s.draws) :: s.deviceLog)) := by
  simp [busRead, h, draw]

theorem busRead_unmapped {a : Word} {s : State} (h : s.memMap.regionAt a.toNat = .unmapped) :
    busRead a s = (Config.freeByte s.draws, s.setDraws (s.draws + 1)) := by
  simp [busRead, h, draw]

theorem State.isPlain_of_ram_or_rom {s : State} {a : Word}
    (h : s.memMap.regionAt a.toNat = .ram ∨ s.memMap.regionAt a.toNat = .rom) : s.isPlain a := by
  rcases h with h | h <;> simp [State.isPlain, plainAt, h]

/-- Settles O28: the three kinds of read, RAM and ROM being plain memory. -/
theorem readsByRegion : Obligations.ReadsByRegion := fun _ _ =>
  ⟨fun plain => busRead_plain (State.isPlain_of_ram_or_rom plain), busRead_device, busRead_unmapped⟩

/-! ## What is left of a step that a reset cuts short

Whatever a step keeps, it keeps in two ways: a complete step keeps it, and so do the cut and the reset sequence after it. The
cut is said once, as the state `u` it leaves of the state `t` that the step from `s` would have ended in. -/

/-- `u` is what a cut leaves of the step from `s` to `t`, before the reset sequence (R260, U18, log 13): bytes of RAM, the device
accesses of the step and the draws may differ from `t`, and nothing else. -/
structure CutShort (s t u : State) : Prop where
  frame : u = { t with mem := u.mem, deviceLog := u.deviceLog, draws := u.draws }
  wf : t.mem.wf → u.mem.wf
  bytes : ∀ b, ¬ t.isRam b → u.byteAt b = t.byteAt b
  goes : s.Goes u

/-- An interrupted step is a cut, then the reset sequence: the accesses of the complete step stand in front of the earlier ones,
so that a cut reaches none of these. -/
theorem interrupted_cutShort {s t : State} (h : s.Goes t) : ∃ u, CutShort s t u ∧ interrupted s t = resetSequence u := by
  obtain ⟨⟨new, log⟩, draws⟩ := h
  obtain ⟨anyFrame, anyDraws, anyWf, anyElsewhere, -⟩ := anyBytes_spec (stepWrites s) t
  have anyLog : (anyBytes (stepWrites s) t).deviceLog = new ++ s.deviceLog := by rw [anyFrame]; exact log
  obtain ⟨cutFrame, cutDraws, -, -, kept, -, cutLog, -⟩ := cutAccesses_spec s.deviceLog new _ anyLog
  have cutMem : (cutAccesses s.deviceLog (anyBytes (stepWrites s) t)).mem = (anyBytes (stepWrites s) t).mem := by rw [cutFrame]
  refine ⟨_, ⟨?frame, ?wf, ?bytes, ?goes⟩, rfl⟩
  case frame => rw [cutFrame, anyFrame]
  case wf => rw [cutMem]; exact anyWf
  case bytes => exact fun b notRam => (congrArg (Memory.read · b.toNat) cutMem).trans (anyElsewhere b (.inr notRam))
  case goes => exact ⟨⟨kept, cutLog⟩, (draws.trans anyDraws).trans cutDraws⟩

/-- What a step that goes on did: a complete step, or a complete step cut short and then the reset sequence. -/
theorem step_cutShort_cases {s t : State} (h : step s = .next t) :
    completeStep s = .next t ∨ ∃ c u, completeStep s = .next c ∧ CutShort s c u ∧ t = resetSequence u := by
  rcases step_cases h with complete | ⟨c, complete, rfl⟩
  · exact .inl complete
  · obtain ⟨u, cut, e⟩ := interrupted_cutShort (completeStep_goes complete)
    exact .inr ⟨c, u, complete, cut, e⟩

/-! ## The invariant over a step -/

theorem resetSequence_inv {s : State} (h : s.mem.wf) : (resetSequence s).Inv where
  memory := by simpa using h
  oneState := by simp
  noEdge := by simp

/-- Sampling the inputs touches nothing that the invariant speaks of (R231). -/
theorem sampleInputs_inv {s : State} (h : s.Inv) : (sampleInputs s).Inv := ⟨h.memory, h.oneState, h.noEdge⟩

/-- Of a processor that runs, the invariant asks canonical memory only. -/
theorem State.Inv.of_running {s : State} (memory : s.mem.wf) (waiting : s.waiting = false) (stopped : s.stopped = false) :
    s.Inv where
  memory := memory
  oneState := by simp [waiting]
  noEdge := by simp [waiting, stopped]

/-- An entry ends a wait, and is taken by a processor that is not stopped (R236, R246). -/
theorem enterException_inv {s : State} (c : Cause) (ret : Word) (memory : s.mem.wf) (stopped : s.stopped = false) :
    (enterException c ret s).Inv :=
  .of_running (enterException_wf c ret s memory) (by simp) (by simpa using stopped)

/-- What a boundary owes to the invariant: a step that is done keeps it; an entry is taken by a processor that is not stopped; an
instruction is fetched by one that runs and whose mask edge is over (R240, R241, R245, R246). -/
def Boundary.MeetsInv : Boundary → Prop
  | .done t => t.Inv
  | .enter _ t => t.mem.wf ∧ t.stopped = false
  | .fetch t => t.mem.wf ∧ t.waiting = false ∧ t.stopped = false ∧ t.maskEdge = false

theorem waitTurn_meetsInv {s : State} (h : s.Inv) (stopped : s.stopped = false) : (waitTurn s).MeetsInv := by
  rcases waitTurn_cases s with ⟨-, -, e⟩ | ⟨-, -, e⟩ | ⟨-, e⟩ <;> rw [e]
  · exact .of_running h.memory rfl stopped
  · exact ⟨h.memory, stopped⟩
  · exact h

theorem checkBoundary_meetsInv {s : State} (h : s.Inv) : (checkBoundary s).MeetsInv := by
  rcases checkBoundary_cases s with ⟨-, e⟩ | ⟨-, e⟩ | ⟨stopped, -, e⟩ | ⟨stopped, -, e⟩ | ⟨stopped, waiting, t, reads, e | e⟩ <;>
    rw [e]
  · exact resetSequence_inv h.memory
  · exact sampleInputs_inv h
  · exact ⟨h.memory, stopped⟩
  · exact waitTurn_meetsInv (sampleInputs_inv h) stopped
  · exact ⟨reads.mem_eq ▸ h.memory, reads.stopped_eq.trans stopped⟩
  · exact ⟨reads.mem_eq ▸ h.memory, reads.waiting_eq.trans waiting, reads.stopped_eq.trans stopped, rfl⟩

/-- An instruction run by a processor with no mask edge: WAI and STP set one of the two states and note no edge, BRK is an entry,
and every other instruction leaves the processor running (R18, R241, R245, R246). -/
theorem exec_inv {i : Instr} {s t : State} (h : exec i s = .next t) (memory : s.mem.wf) (waiting : s.waiting = false)
    (stopped : s.stopped = false) (noEdge : s.maskEdge = false) : t.Inv := by
  have kept := exec_sameBut h
  have running (hw : .waiting ∉ writes i) (hs : .stopped ∉ writes i) : t.Inv :=
    .of_running (exec_wf h memory) ((kept .waiting hw).trans waiting) ((kept .stopped hs).trans stopped)
  cases i
  case wai => cases h; exact ⟨memory, by simp [stopped], fun _ => noEdge⟩
  case stp => cases h; exact ⟨memory, by simp [waiting], fun _ => noEdge⟩
  case brk => cases h; exact enterException_inv _ _ memory stopped
  case asl o | lsr o | rol o | ror o | inc o | dec o | bit o => cases o <;> exact running (by simp) (by simp)
  all_goals exact running (by simp) (by simp)

theorem completeStep_inv {s t : State} (h : completeStep s = .next t) (inv : s.Inv) : t.Inv := by
  have meets := checkBoundary_meetsInv inv
  rcases completeStep_cases h with ⟨e, -⟩ | ⟨c, u, e, rfl, -⟩ | ⟨u, e, run, -⟩ <;> rw [e] at meets
  · exact meets
  · obtain ⟨memory, stopped⟩ := meets
    exact enterException_inv c u.pc memory stopped
  · obtain ⟨memory, waiting, stopped, noEdge⟩ := meets
    exact exec_inv run (by simpa using memory) (by simpa using waiting) (by simpa using stopped) (by simpa using noEdge)

/-- Settles O7: a complete step keeps the invariant, and of a step cut short the reset sequence needs only its canonical memory. -/
theorem everyStepKeepsInvariant : Obligations.EveryStepKeepsInvariant := by
  intro s t inv h
  rcases step_cutShort_cases h with complete | ⟨c, u, complete, cut, rfl⟩
  · exact completeStep_inv complete inv
  · exact resetSequence_inv (cut.wf (completeStep_inv complete inv).memory)

/-! ## Memory outside RAM, and the map -/

/-- No instruction is a writer of the memory map: it is a parameter (R33, D7). -/
theorem memMap_not_mem_writes (i : Instr) : .memMap ∉ writes i := by
  cases i
  case asl o | lsr o | rol o | ror o | inc o | dec o | bit o => cases o <;> simp
  all_goals simp

theorem exec_memMap {i : Instr} {s t : State} (h : exec i s = .next t) : t.memMap = s.memMap :=
  exec_sameBut h .memMap (memMap_not_mem_writes i)

theorem completeStep_memMap {s t : State} (h : completeStep s = .next t) : t.memMap = s.memMap := by
  have kept := checkBoundary_mem s
  rcases completeStep_cases h with ⟨e, -⟩ | ⟨c, u, e, rfl, -⟩ | ⟨u, e, run, -⟩ <;> rw [e] at kept <;> obtain ⟨-, map⟩ := kept
  · exact map
  · exact (enterException_memMap c u.pc u).trans map
  · exact ((exec_memMap run).trans (fetchInstr_memMap u)).trans map

/-- Settles O9: a complete step writes RAM only, a cut puts free values in RAM only, and the reset sequence writes no memory. -/
theorem onlyRamChangesAndTheMapStays : Obligations.OnlyRamChangesAndTheMapStays := by
  intro s t h
  rcases step_cutShort_cases h with complete | ⟨c, u, complete, cut, rfl⟩
  · exact ⟨completeStep_memMap complete, fun a notRam => completeStep_bytes complete a (.inr notRam)⟩
  · have map : c.memMap = s.memMap := completeStep_memMap complete
    have cutMap : u.memMap = c.memMap := by rw [cut.frame]
    refine ⟨(resetSequence_memMap u).trans (cutMap.trans map), fun a notRam => ?_⟩
    have notRamAfter : ¬ c.isRam a := by simpa only [State.isRam, map] using notRam
    calc (resetSequence u).byteAt a
      _ = u.byteAt a := by simp only [State.byteAt, resetSequence_mem]
      _ = c.byteAt a := cut.bytes a notRamAfter
      _ = s.byteAt a := completeStep_bytes complete a (.inr notRam)

/-! ## Device accesses and draws over a step -/

theorem step_goes {s t : State} (h : step s = .next t) : s.Goes t := by
  rcases step_cutShort_cases h with complete | ⟨c, u, -, cut, rfl⟩
  · exact completeStep_goes complete
  · exact cut.goes.trans (resetSequence_goes u)

/-- Settles O10: complete steps and cuts put accesses in front and draw free values, and so does the reset sequence's read of
its vector. -/
theorem deviceAccessesAreOnlyAdded : Obligations.DeviceAccessesAreOnlyAdded := ⟨fun _ _ => step_goes, fun _ => rfl⟩

end Sys2Proof.Machine

namespace Sys2Proof

open Machine (word hiByte loByte)

/-! ## Cutting and joining a word (00_scope.md R4) -/

@[simp] theorem loByte_word (hi lo : Byte) : loByte (word hi lo) = lo := BitVec.extractLsb'_append_eq_right

@[simp] theorem hiByte_word (hi lo : Byte) : hiByte (word hi lo) = hi := BitVec.extractLsb'_append_eq_left

@[simp] theorem word_hiByte_loByte (w : Word) : word (hiByte w) (loByte w) = w :=
  BitVec.extractLsb'_append_extractLsb' (w := 8) (len := 8)

/-! ## The reserved bytes (30_encoding.md R90) -/

/-- The reserved bytes of length 1 (R90): the $x3 column, and the $xB column less $CB (WAI) and $DB (STP). -/
def reservedOne : List Byte :=
  [0x03#8, 0x13#8, 0x23#8, 0x33#8, 0x43#8, 0x53#8, 0x63#8, 0x73#8, 0x83#8, 0x93#8, 0xA3#8, 0xB3#8, 0xC3#8, 0xD3#8, 0xE3#8, 0xF3#8,
   0x0B#8, 0x1B#8, 0x2B#8, 0x3B#8, 0x4B#8, 0x5B#8, 0x6B#8, 0x7B#8, 0x8B#8, 0x9B#8, 0xAB#8, 0xBB#8, 0xEB#8, 0xFB#8]

theorem reservedLength_eq_one_iff (op : Byte) : reservedLength op = some 1 ↔ op ∈ reservedOne := by
  decide +revert +kernel

/-- The bytes of each length that R90 gives a reserved byte. -/
theorem reservedLength_cases {op : Byte} {l : Nat} (h : reservedLength op = some l) :
    (op ∈ reservedOne ∧ l = 1) ∨ (op ∈ reservedTwo ∧ l = 2) ∨ (op ∈ reservedThree ∧ l = 3) := by
  have one := reservedLength_eq_one_iff op
  unfold reservedLength at h one
  split_ifs at h one <;> cases h <;> simp_all

theorem rowOf_of_mem_reservedOne : ∀ op ∈ reservedOne, rowOf op = .one (.reserved op []) := by
  simp only [reservedOne, List.forall_mem_cons, List.not_mem_nil, false_implies, implies_true, and_true]
  and_intros <;> rfl

theorem rowOf_of_mem_reservedTwo : ∀ op ∈ reservedTwo, rowOf op = .two fun b => .reserved op [b] := by
  simp only [reservedTwo, List.forall_mem_cons, List.not_mem_nil, false_implies, implies_true, and_true]
  and_intros <;> rfl

theorem rowOf_of_mem_reservedThree : ∀ op ∈ reservedThree, rowOf op = .three fun b b' => .reserved op [b, b'] := by
  simp only [reservedThree, List.forall_mem_cons, List.not_mem_nil, false_implies, implies_true, and_true]
  and_intros <;> rfl

/-- The cell of a reserved byte is as long as the byte, and holds it with the operand bytes it skips (R90). -/
theorem rowOf_reserved {op : Byte} {l : Nat} (h : reservedLength op = some l) :
    (rowOf op).length = l ∧ ∀ b b', (rowOf op).instr b b' = .reserved op ([b, b'].take (l - 1)) := by
  rcases reservedLength_cases h with ⟨mem, rfl⟩ | ⟨mem, rfl⟩ | ⟨mem, rfl⟩
  · rw [rowOf_of_mem_reservedOne op mem]
    exact ⟨rfl, fun _ _ => rfl⟩
  · rw [rowOf_of_mem_reservedTwo op mem]
    exact ⟨rfl, fun _ _ => rfl⟩
  · rw [rowOf_of_mem_reservedThree op mem]
    exact ⟨rfl, fun _ _ => rfl⟩

/-! ## What is encoded decodes -/

/-- The bytes of the instruction, where it has any, decode to it and leave what follows them. -/
def Instr.DecodesBack (i : Instr) : Prop := ∀ bs, encode i = some bs → ∀ rest, decode (bs ++ rest) = .ok (i, rest)

theorem decode_two {op : Byte} {f : Byte → Instr} (h : rowOf op = .two f) (b : Byte) (rest : List Byte) :
    decode ([op, b] ++ rest) = .ok (f b, rest) := by
  simp [decode, h]

theorem decode_wordRow {op : Byte} {f : Word → Instr} (h : rowOf op = wordRow f) (w : Word) (rest : List Byte) :
    decode (wordBytes op w ++ rest) = .ok (f w, rest) := by
  simp [decode, wordBytes, h, wordRow]

/-- `f` is the mnemonic of the row `t` of R71: the cells of the opcode map (R53) at the bytes of the row hold it, each with the
mode of its byte. -/
structure OpcodeSet.InMap (t : OpcodeSet) (f : MemArg → Instr) : Prop where
  zp : ∀ op ∈ t.zp, rowOf op = .two fun z => f (.zp z)
  zpX : ∀ op ∈ t.zpX, rowOf op = .two fun z => f (.zpX z)
  zpY : ∀ op ∈ t.zpY, rowOf op = .two fun z => f (.zpY z)
  abs : ∀ op ∈ t.abs, rowOf op = wordRow fun w => f (.abs w)
  absX : ∀ op ∈ t.absX, rowOf op = wordRow fun w => f (.absX w)
  absY : ∀ op ∈ t.absY, rowOf op = wordRow fun w => f (.absY w)
  indX : ∀ op ∈ t.indX, rowOf op = .two fun z => f (.indX z)
  indY : ∀ op ∈ t.indY, rowOf op = .two fun z => f (.indY z)
  zpInd : ∀ op ∈ t.zpInd, rowOf op = .two fun z => f (.zpInd z)

/-- A mnemonic that gets its bytes from a row of R71 that is in the map decodes back, in every memory mode. -/
theorem OpcodeSet.InMap.decodesBack {t : OpcodeSet} {f : MemArg → Instr} (bytes : ∀ m, encode (f m) = t.ofMem m)
    (inMap : t.InMap f) : ∀ m, (f m).DecodesBack := by
  intro m bs h rest
  rw [bytes] at h
  cases m <;> obtain ⟨op, cell, rfl⟩ := Option.map_eq_some_iff.mp h
  case zp z => exact decode_two (inMap.zp op cell) z rest
  case zpX z => exact decode_two (inMap.zpX op cell) z rest
  case zpY z => exact decode_two (inMap.zpY op cell) z rest
  case abs w => exact decode_wordRow (inMap.abs op cell) w rest
  case absX w => exact decode_wordRow (inMap.absX op cell) w rest
  case absY w => exact decode_wordRow (inMap.absY op cell) w rest
  case indX z => exact decode_two (inMap.indX op cell) z rest
  case indY z => exact decode_two (inMap.indY op cell) z rest
  case zpInd z => exact decode_two (inMap.zpInd op cell) z rest

/-- A reserved byte skips as many bytes as its cell takes (R90). -/
theorem decodesBack_reserved (op : Byte) (skipped : List Byte) : (Instr.reserved op skipped).DecodesBack := by
  intro bs h rest
  obtain ⟨length, ⟨⟩⟩ := Option.ite_none_right_eq_some.mp h
  rcases reservedLength_cases length with ⟨mem, l⟩ | ⟨mem, l⟩ | ⟨mem, l⟩
  · obtain rfl : skipped = [] := List.length_eq_zero_iff.mp (by omega)
    simp [decode, rowOf_of_mem_reservedOne op mem]
  · obtain ⟨b, rfl⟩ := List.length_eq_one_iff.mp (show skipped.length = 1 by omega)
    simp [decode, rowOf_of_mem_reservedTwo op mem]
  · obtain ⟨b, b', rfl⟩ := List.length_eq_two.mp (show skipped.length = 2 by omega)
    simp [decode, rowOf_of_mem_reservedThree op mem]

/-- The encoder's table by mnemonic (R71) and the decoder's map by byte (R53) agree: a memory operand goes through its row of
R71, a word and the bytes of a reserved byte through their lemmas, and the other bytes compute. -/
theorem Instr.decodesBack (i : Instr) : i.DecodesBack := by
  cases i
  case lda o | ldx o | ldy o | and o | bit o | eor o | ora o | adc o | sbc o | cmp o | cpx o | cpy o =>
    cases o with
    | imm v => rintro _ ⟨⟩ rest; rfl
    | mem m =>
      revert m
      refine OpcodeSet.InMap.decodesBack (fun m => rfl) ?_
      constructor <;> rintro op ⟨⟩ <;> rfl
  case asl o | lsr o | rol o | ror o | inc o | dec o =>
    cases o with
    | acc => rintro _ ⟨⟩ rest; rfl
    | mem m =>
      revert m
      refine OpcodeSet.InMap.decodesBack (fun m => rfl) ?_
      constructor <;> rintro op ⟨⟩ <;> rfl
  case sta m | stx m | sty m | stz m | trb m | tsb m =>
    revert m
    refine OpcodeSet.InMap.decodesBack (fun m => rfl) ?_
    constructor <;> rintro op ⟨⟩ <;> rfl
  case jmp t =>
    cases t with
    | abs w => rintro _ ⟨⟩ rest; exact decode_wordRow (f := fun w => .jmp (.abs w)) rfl w rest
    | ind w => rintro _ ⟨⟩ rest; exact decode_wordRow (f := fun w => .jmp (.ind w)) rfl w rest
    | absX w => rintro _ ⟨⟩ rest; exact decode_wordRow (f := fun w => .jmp (.absX w)) rfl w rest
  case jsr w => rintro _ ⟨⟩ rest; exact decode_wordRow (f := fun w => .jsr w) rfl w rest
  case reserved op skipped => exact decodesBack_reserved op skipped
  all_goals rintro _ ⟨⟩ rest; rfl

/-- The terms that have bytes are the instructions of the part (R71, R72, R90): mode by mode of each operand. -/
theorem encode_isSome (i : Instr) : (encode i).isSome = i.wf := by
  cases i
  case lda o | ldx o | ldy o | and o | bit o | eor o | ora o | adc o | sbc o | cmp o | cpx o | cpy o =>
    cases o with
    | imm v => rfl
    | mem m => cases m <;> rfl
  case asl o | lsr o | rol o | ror o | inc o | dec o =>
    cases o with
    | acc => rfl
    | mem m => cases m <;> rfl
  case sta m | stx m | sty m | stz m | trb m | tsb m => cases m <;> rfl
  case jmp t => cases t <;> rfl
  case reserved op skipped =>
    simp only [encode, Instr.wf]
    split_ifs with length <;> simp [length]
  all_goals rfl

/-- Settles O1: a well-formed instruction has bytes, and an instruction that has bytes decodes back. -/
theorem decodeGivesBackEncodedInstruction : Obligations.DecodeGivesBackEncodedInstruction := by
  intro i wf
  obtain ⟨bs, h⟩ := Option.isSome_iff_exists.mp ((encode_isSome i).trans wf)
  exact ⟨bs, h, i.decodesBack bs h⟩

/-! ## What decodes is encoded by the bytes taken -/

/-- The bytes of an instruction are as many as its length (R50, R71, R90). -/
theorem encode_length {i : Instr} {bs : List Byte} (h : encode i = some bs) : bs.length = i.length := by
  cases i
  case lda o | ldx o | ldy o | and o | bit o | eor o | ora o | adc o | sbc o | cmp o | cpx o | cpy o =>
    exact Laws.EncodedLength.ofRead_length _ o bs h
  case asl o | lsr o | rol o | ror o | inc o | dec o => exact Laws.EncodedLength.ofMod_length _ o bs h
  case sta m | stx m | sty m | stz m | trb m | tsb m => exact Laws.EncodedLength.ofMem_length _ m bs h
  case jmp t => exact Laws.EncodedLength.jmp t bs h
  case reserved op skipped => exact Laws.EncodedLength.reserved op skipped bs h
  all_goals cases h; rfl

/-- The cell holds, whatever its operand bytes, an instruction whose bytes are `op` and those operand bytes. -/
def Row.Encodes (op : Byte) : Row → Prop
  | .one i => encode i = some [op]
  | .two f => ∀ b, encode (f b) = some [op, b]
  | .three f => ∀ b b', encode (f b b') = some [op, b, b']

@[simp] theorem Row.encodes_one (op : Byte) (i : Instr) : (Row.one i).Encodes op ↔ encode i = some [op] := Iff.rfl

@[simp] theorem Row.encodes_two (op : Byte) (f : Byte → Instr) :
    (Row.two f).Encodes op ↔ ∀ b, encode (f b) = some [op, b] := Iff.rfl

@[simp] theorem Row.encodes_three (op : Byte) (f : Byte → Byte → Instr) :
    (Row.three f).Encodes op ↔ ∀ b b', encode (f b b') = some [op, b, b'] := Iff.rfl

/-- A cell with a word is looked at by its word, not by the word's two bytes. -/
@[simp] theorem Row.encodes_wordRow (op : Byte) (f : Word → Instr) :
    (wordRow f).Encodes op ↔ ∀ w, encode (f w) = some (wordBytes op w) := by
  constructor
  · intro h w
    simpa [wordBytes] using h (loByte w) (hiByte w)
  · intro h lo hi
    simpa [wordBytes] using h (word hi lo)

/-- Cell by cell of the opcode map, the encoder gives back the cell's byte (R53, R71). -/
theorem opcodeMap_encodes : ∀ c ∈ opcodeMap.zipIdx, c.1.Encodes (BitVec.ofNat 8 c.2) := by
  simp only [opcodeMap, List.zipIdx_append, List.forall_mem_append]
  and_intros
  all_goals
    simp only [opcodeRow0, opcodeRow1, opcodeRow2, opcodeRow3, opcodeRow4, opcodeRow5, opcodeRow6, opcodeRow7, opcodeRow8, opcodeRow9,
      opcodeRowA, opcodeRowB, opcodeRowC, opcodeRowD, opcodeRowE, opcodeRowF, List.zipIdx_cons, List.zipIdx_nil, List.forall_mem_cons,
      List.length_append, List.length_cons, List.length_nil, Nat.reduceAdd, List.not_mem_nil, false_implies, implies_true, and_true,
      Row.encodes_one, Row.encodes_two, Row.encodes_three, Row.encodes_wordRow]
    and_intros <;> intros <;> rfl

/-- Whatever operand bytes a cell is handed, the instruction it makes is encoded by the cell's byte and those (R53, R71). -/
theorem rowOf_encodes (op : Byte) : (rowOf op).Encodes op := by
  have lt : op.toNat < opcodeMap.length := opcodeMap_length ▸ op.isLt
  have mem : (rowOf op, op.toNat) ∈ opcodeMap.zipIdx := by
    rw [List.mk_mem_zipIdx_iff_getElem?, rowOf, List.getD_eq_getElem _ _ lt, List.getElem?_eq_getElem lt]
  simpa using opcodeMap_encodes _ mem

/-- What decodes is encoded by the bytes that the decoder took: the opcode byte, and as many operand bytes as its cell has. -/
theorem encode_of_decode {bs rest : List Byte} {i : Instr} (h : decode bs = .ok (i, rest)) :
    ∃ front, encode i = some front ∧ bs = front ++ rest := by
  cases bs with
  | nil => cases h
  | cons op tail =>
    have bytes := rowOf_encodes op
    cases cell : rowOf op <;> simp only [decode, cell] at h <;> rw [cell] at bytes
    case one j =>
      cases h
      exact ⟨_, bytes, rfl⟩
    case two f =>
      rcases tail with _ | ⟨b, tail⟩ <;> cases h
      exact ⟨_, bytes b, rfl⟩
    case three f =>
      rcases tail with _ | ⟨b, _ | ⟨b', tail⟩⟩ <;> cases h
      exact ⟨_, bytes b b', rfl⟩

/-- Settles O2: the bytes taken are the encoding, and only well-formed terms have one. -/
theorem decodedBytesAreTheEncoding : Obligations.DecodedBytesAreTheEncoding := by
  refine ⟨fun bs i rest h => ?_, fun i => by rw [encode_isSome]⟩
  obtain ⟨front, bytes, split⟩ := encode_of_decode h
  have wf : i.wf = true := by rw [← encode_isSome, bytes]; rfl
  exact ⟨wf, front, bytes, split, encode_length bytes⟩

/-! ## What the decoder rejects -/

/-- The decoder rejects bytes that end before the opcode byte's length, and no others (R52). -/
theorem decode_error_iff (op : Byte) (tail : List Byte) :
    (∃ e, decode (op :: tail) = .error e) ↔ (op :: tail).length < (rowOf op).length := by
  cases cell : rowOf op <;> simp only [decode, cell, Row.length, List.length_cons]
  case one i => simp
  case two f => rcases tail with _ | ⟨b, tail⟩ <;> simp
  case three f => rcases tail with _ | ⟨b, _ | ⟨b', tail⟩⟩ <;> simp

/-- Settles O3: three bytes hold every cell's operands, and no bytes are rejected as such. -/
theorem decoderRejectsOnlyTruncatedBytes : Obligations.DecoderRejectsOnlyTruncatedBytes := by
  refine ⟨fun op b1 b2 rest => ⟨_, _, decode_cons_cons_cons op b1 b2 rest⟩, fun bs => ?_⟩
  cases bs with
  | nil => exact ⟨fun _ => trivial, fun _ => ⟨.noByte, rfl⟩⟩
  | cons op tail => exact decode_error_iff op tail

/-- Settles O4: of the reserved bytes by their cells, of the other bytes by a look at each. -/
theorem opcodeByteTellsTheLength : Obligations.OpcodeByteTellsTheLength := by
  refine fun op => ⟨fun l h => (rowOf_reserved h).1, ?_⟩
  revert op
  decide +kernel

/-- Settles O5: each word computes. -/
theorem sampleWordsDecode : Obligations.SampleWordsDecode :=
  ⟨rfl, rfl, rfl, rfl, rfl, rfl, rfl, rfl, rfl, rfl, rfl, rfl⟩

end Sys2Proof

namespace Sys2Proof.Machine

/-! ## Reserved bytes as no-operations (log 2) -/

/-- Settles O58: the fetch from plain memory moves PC over the cell of the reserved byte, whose instruction does nothing. -/
theorem reservedBytesDoNothing : Obligations.ReservedBytesDoNothing := by
  refine ⟨fun op skipped s => rfl, fun s l quiet h0 h1 h2 reserved => ?_, by decide +kernel⟩
  obtain ⟨length, instr⟩ := rowOf_reserved reserved
  have fetched : fetchInstr (s.setMaskEdge false) =
      ((rowOf (s.byteAt s.pc)).instr (s.byteAt (s.pc + 1)) (s.byteAt (s.pc + 2)),
        (s.setMaskEdge false).setPc (s.pc + BitVec.ofNat 16 (rowOf (s.byteAt s.pc)).length)) := fetchInstr_plain h0 h1 h2
  rw [step_of_quiet quiet, fetched, instr, length]
  rfl

/-! ## Operands (30_encoding.md R57 to R65, R70) -/

/-- A zero-page address is in page zero (R57). -/
theorem zext16_toNat_le (z : Byte) : (zext16 z).toNat ≤ 0xFF := by
  unfold zext16
  bv_omega

/-- Settles O26: page zero holds the zero-page sums, and the pointers that lie in plain memory are read from it. -/
theorem effectiveAddressesOfIndexedModes : Obligations.EffectiveAddressesOfIndexedModes := by
  intro s z w
  refine ⟨⟨rfl, rfl, ?pageZero⟩, ⟨rfl, rfl⟩, ⟨rfl, rfl⟩, ⟨rfl, rfl⟩, ⟨rfl, ?indX⟩, rfl, ?indY⟩
  case pageZero => exact zext16_toNat_le z
  case indX => exact fun lo hi => read16zp_plain lo hi
  case indY =>
    intro lo hi
    simp only [effAddr]
    rw [read16zp_plain lo hi]
    rfl

/-- Settles O27: the operand of a memory mode is by definition one read of the effective address, after reads that change nothing
but the draws and the device accesses. -/
theorem operandValueAndOtherModes : Obligations.OperandValueAndOtherModes := by
  intro s z w
  refine ⟨rfl, rfl, fun lo hi => read16zp_plain lo hi, rfl, fun m => ⟨effAddr_same m s, rfl⟩, fun m still plain => ?_⟩
  calc readOperand (.mem m) s
    _ = busRead (effAddr m s).1 (effAddr m s).2 := rfl
    _ = busRead (effAddr m s).1 s := by rw [still]
    _ = (s.byteAt (effAddr m s).1, s) := busRead_plain plain

end Sys2Proof.Machine

namespace Sys2Proof.Machine

/-! ## Load and store (40_load_store.md R100 to R106) -/

/-- A store is one write of the effective address, on the state after the reads of its mode (R35). -/
theorem store_changesByte (m : MemArg) (v : Byte) (s : State) :
    ChangesByte (effAddr m s).2 (store m v s) (effAddr m s).1 v := busWrite_changesByte _ v _

/-- Settles O30: each store answers the state after its one write, of A, X, Y or $00. -/
theorem storesWriteOneByte : Obligations.StoresWriteOneByte := by
  intro m s
  exact ⟨effAddr_same m s,
    ⟨store m s.a s, rfl, store_changesByte m s.a s⟩,
    ⟨store m s.x s, rfl, store_changesByte m s.x s⟩,
    ⟨store m s.y s, rfl, store_changesByte m s.y s⟩,
    ⟨store m 0x00#8 s, rfl, store_changesByte m 0x00#8 s⟩⟩

/-- `SetNZ` on a state whose flags are still those of `s` (R16). -/
theorem setNZ_eq_of_p_eq {s u : State} (h : u.p = s.p) (v : Byte) :
    setNZ v u = { u with p := { s.p with n := v.msb, z := v == 0#8 } } := by
  rw [setNZ, h, Flags.setNZ_eq]
  rfl

/-- Settles O29: the operand's reads keep the flags, and so does the write of the register, so N and Z are set among those of `s`. -/
theorem loadsSetRegisterAndNZ : Obligations.LoadsSetRegisterAndNZ := by
  intro o s m t
  have same : s.SameButReads t := readOperand_same o s
  have flags : t.p = s.p := same.p_eq
  exact ⟨same,
    congrArg Host.Outcome.next (setNZ_eq_of_p_eq (u := t.setA m) flags m),
    congrArg Host.Outcome.next (setNZ_eq_of_p_eq (u := t.setX m) flags m),
    congrArg Host.Outcome.next (setNZ_eq_of_p_eq (u := t.setY m) flags m)⟩

end Sys2Proof.Machine

namespace Sys2Proof.Machine

/-! ## Transfers (41_transfer.md R110 to R115) -/

/-- The end of an operation that sets N and Z from `v` and whose register write left the flags as they were in `s` (R16). -/
theorem next_setNZ_of_p_eq {s u : State} (h : u.p = s.p) (v : Byte) :
    (.next (setNZ v u) : StepResult) = .next { u with p := { s.p with n := v.msb, z := v == 0#8 } } :=
  congrArg Host.Outcome.next (setNZ_eq_of_p_eq h v)

/-- Settles O31: the opcode bytes compute; five transfers write their register and set N and Z from the value written, and TXS only
writes S (R114). -/
theorem transfersMoveRegisters : Obligations.TransfersMoveRegisters := by
  refine ⟨⟨rfl, rfl, rfl, rfl, rfl, rfl⟩, fun s => ⟨?tax, ?tay, ?tsx, ?txa, ?txs, ?tya⟩⟩
  case tax => exact next_setNZ_of_p_eq (u := s.setX s.a) (s.setX_p s.a) s.a
  case tay => exact next_setNZ_of_p_eq (u := s.setY s.a) (s.setY_p s.a) s.a
  case tsx => exact next_setNZ_of_p_eq (u := s.setX s.sp) (s.setX_p s.sp) s.sp
  case txa => exact next_setNZ_of_p_eq (u := s.setA s.x) (s.setA_p s.x) s.x
  case txs => rfl
  case tya => exact next_setNZ_of_p_eq (u := s.setA s.y) (s.setA_p s.y) s.y

end Sys2Proof.Machine

namespace Sys2Proof.Machine

/-! ## The stack (42_stack.md R120 to R128) -/

/-- The stack address as the rules write it, `$0100 | S` (10_state.md R12). -/
theorem stackAddr_eq_or (sp : Byte) : stackAddr sp = 0x0100#16 ||| sp.setWidth 16 := by
  rw [stackAddr, word, BitVec.append_def, BitVec.setWidth'_eq]
  rfl

/-- A write does not look at S. -/
theorem busWrite_setSp (a : Word) (v sp : Byte) (s : State) : busWrite a v (s.setSp sp) = (busWrite a v s).setSp sp := by
  simp only [busWrite, State.setSp_memMap]
  split <;> rfl

/-- A push is one write at `$0100 | S`, on the state whose S has moved down (R12). -/
theorem push8_changesByte (v : Byte) (s : State) :
    ChangesByte (s.setSp (s.sp - 1)) (push8 v s) (0x0100#16 ||| s.sp.setWidth 16) v := by
  rw [push8, ← busWrite_setSp, ← stackAddr_eq_or]
  exact busWrite_changesByte _ v _

/-- Settles O32: the opcode bytes compute, and each push answers the state after `Push8` of A, the image of P, X or Y. -/
theorem pushesStoreBelowTheStack : Obligations.PushesStoreBelowTheStack :=
  ⟨⟨rfl, rfl, rfl, rfl⟩, fun s =>
    ⟨⟨push8 s.a s, rfl, push8_changesByte s.a s⟩,
     ⟨push8 (s.p.image true) s, rfl, push8_changesByte (s.p.image true) s⟩,
     ⟨push8 s.x s, rfl, push8_changesByte s.x s⟩,
     ⟨push8 s.y s, rfl, push8_changesByte s.y s⟩⟩⟩

/-- A pull is a read at `$0100 | S`, S having moved up (R12). -/
theorem pull8_eq_busRead (s : State) :
    pull8 s = busRead (0x0100#16 ||| (s.sp + 1).setWidth 16) { s with sp := s.sp + 1 } := by
  rw [pull8, stackAddr_eq_or]
  rfl

/-- `setPWithEdge` on a state whose flags are still those of `s`: the edge compares with the I of `s` (R241, log 12). -/
theorem setPWithEdge_eq_of_p_eq {s u : State} (h : u.p = s.p) (q : Flags) :
    setPWithEdge q u = { u with p := q, maskEdge := s.p.i != q.i } := by
  rw [setPWithEdge, h]
  rfl

/-- Settles O33: each pull reads by `Pull8`, which keeps the flags; then PLA, PLX and PLY set N and Z among those of `s`, and PLP
compares the I it loads with that of `s`. -/
theorem pullsLoadAboveTheStack : Obligations.PullsLoadAboveTheStack := by
  refine ⟨⟨rfl, rfl, rfl, rfl⟩, fun s => ?_⟩
  rw [← pull8_eq_busRead]
  intro r v t p
  have flags : t.p = s.p := pull8_p s
  exact ⟨pull8_same s,
    next_setNZ_of_p_eq (u := t.setA v) flags v,
    next_setNZ_of_p_eq (u := t.setX v) flags v,
    next_setNZ_of_p_eq (u := t.setY v) flags v,
    congrArg Host.Outcome.next (setPWithEdge_eq_of_p_eq flags p)⟩

/-- A pull gives back the byte pushed into RAM and the S of before the push, from any state that still has the memory, the map and
the S that the push left (R128). -/
theorem pull8_after_push8 {s t : State} (v : Byte) (ram : s.isRam (stackAddr s.sp)) (mem : t.mem = (push8 v s).mem)
    (map : t.memMap = (push8 v s).memMap) (sp : t.sp = (push8 v s).sp) : (pull8 t).1 = v ∧ (pull8 t).2.sp = s.sp := by
  have back : t.sp + 1 = s.sp := by rw [sp, push8_sp, BitVec.sub_add_cancel]
  have plain : t.isPlain (stackAddr (t.sp + 1)) := by
    rw [back, State.isPlain, map, push8_memMap]
    exact State.isPlain_of_isRam ram
  have byte : t.byteAt (stackAddr s.sp) = v := by
    rw [State.byteAt, mem]
    exact busWrite_byteAt_same v ram
  exact ⟨by rw [pull8_plain plain, back, byte], by rw [pull8_sp, back]⟩

/-- Settles O34: between the push and the pull only the register to be restored changes, so the pull gives the pushed byte and the
old S; the image of P loads back as the six flags (R15). -/
theorem pushThenPullRestores : Obligations.PushThenPullRestores := by
  intro s ram
  refine ⟨?pha_pla, ?phx_plx, ?phy_ply, fun q => ?php_plp⟩
  case pha_pla =>
    obtain ⟨byte, sp⟩ := pull8_after_push8 (t := (push8 s.a s).setA 0#8) s.a ram rfl rfl rfl
    exact ⟨push8 s.a s, _, rfl, rfl, byte, sp⟩
  case phx_plx =>
    obtain ⟨byte, sp⟩ := pull8_after_push8 (t := (push8 s.x s).setX 0#8) s.x ram rfl rfl rfl
    exact ⟨push8 s.x s, _, rfl, rfl, byte, sp⟩
  case phy_ply =>
    obtain ⟨byte, sp⟩ := pull8_after_push8 (t := (push8 s.y s).setY 0#8) s.y ram rfl rfl rfl
    exact ⟨push8 s.y s, _, rfl, rfl, byte, sp⟩
  case php_plp =>
    obtain ⟨byte, sp⟩ := pull8_after_push8 (t := (push8 (s.p.image true) s).setP q) (s.p.image true) ram rfl rfl rfl
    have flags := (congrArg Flags.ofByte byte).trans (s.p.ofByte_image true)
    exact ⟨push8 (s.p.image true) s, _, rfl, rfl, flags, sp⟩

end Sys2Proof.Machine

namespace Sys2Proof.Machine

/-! ## Read-modify-write of an operand (43_logic.md R140) -/

/-- A write does not look at P. -/
theorem busWrite_setP (a : Word) (v : Byte) (q : Flags) (s : State) : busWrite a v (s.setP q) = (busWrite a v s).setP q := by
  simp only [busWrite, State.setP_memMap]
  split <;> rfl

/-- Reads keep the flags, so writing back those of before changes nothing. -/
theorem State.SameButReads.setP_eq {s t : State} (h : s.SameButReads t) : t.setP s.p = t := by
  rw [← h.p_eq]
  rfl

/-- The accumulator form gives A and P what the operation makes of them, and nothing else. -/
theorem modifyOperand_acc {op : Byte → Flags → Byte × Flags} {s : State} {r : Byte} {q : Flags} (result : op s.a s.p = (r, q)) :
    modifyOperand .acc op s = { s with a := r, p := q } := by
  simp only [modifyOperand, result]
  rfl

/-- The memory form reads the operand and hands back to its address what the operation makes of the byte read (R35). -/
theorem modifyOperand_changesByte {m : MemArg} {op : Byte → Flags → Byte × Flags} {s : State} {r : Byte} {q : Flags}
    (result : op (readOperand (.mem m) s).1 s.p = (r, q)) :
    ChangesByte ((readOperand (.mem m) s).2.setP q) (modifyOperand (.mem m) op s) (effAddr m s).1 r := by
  have flags : (readOperand (.mem m) s).2.p = s.p := readOperand_p (.mem m) s
  have written : modifyOperand (.mem m) op s = busWrite (effAddr m s).1 r ((readOperand (.mem m) s).2.setP q) := by
    rw [← flags] at result
    calc modifyOperand (.mem m) op s
      _ = (busWrite (effAddr m s).1 (op (readOperand (.mem m) s).1 (readOperand (.mem m) s).2.p).1 (readOperand (.mem m) s).2).setP
            (op (readOperand (.mem m) s).1 (readOperand (.mem m) s).2.p).2 := rfl
      _ = (busWrite (effAddr m s).1 r (readOperand (.mem m) s).2).setP q := by rw [result]
      _ = busWrite (effAddr m s).1 r ((readOperand (.mem m) s).2.setP q) := (busWrite_setP _ r q _).symm
  rw [written]
  exact busWrite_changesByte _ r _

/-- An instruction that is a read-modify-write of a memory operand answers next with the byte changed and the flags of the operation. -/
theorem exec_modify_changesByte {i : Instr} {m : MemArg} {op : Byte → Flags → Byte × Flags} {s : State} {r : Byte} {q : Flags}
    (run : exec i s = .next (modifyOperand (.mem m) op s)) (result : op (readOperand (.mem m) s).1 s.p = (r, q)) :
    ∃ t, exec i s = .next t ∧ ChangesByte { (readOperand (.mem m) s).2 with p := q } t (effAddr m s).1 r :=
  ⟨_, run, modifyOperand_changesByte result⟩

/-- An operation that leaves the flags changes, at a zero-page address, the byte alone. -/
theorem exec_modifyBits_changesByte {i : Instr} {z : Byte} {op : Byte → Flags → Byte × Flags} {s : State}
    (run : exec i s = .next (modifyOperand (.mem (.zp z)) op s)) (noFlag : ∀ v p, (op v p).2 = p) :
    ∃ t, exec i s = .next t ∧
      ChangesByte (busRead (z.setWidth 16) s).2 t (z.setWidth 16) (op (busRead (z.setWidth 16) s).1 s.p).1 := by
  have result : op (readOperand (.mem (.zp z)) s).1 s.p = ((op (readOperand (.mem (.zp z)) s).1 s.p).1, s.p) :=
    Prod.ext rfl (noFlag _ _)
  have change := modifyOperand_changesByte result
  rw [(readOperand_same _ s).setP_eq] at change
  exact ⟨_, run, change⟩

/-! ## Logic (43_logic.md R141 to R154) -/

/-- Settles O38: each memory form is a read-modify-write by its operation, which is known in arithmetic. -/
theorem shiftsOfMemory : Obligations.ShiftsOfMemory := fun m s =>
  ⟨readOperand_same (.mem m) s,
    exec_modify_changesByte rfl (aslOp_eq _ s.p),
    exec_modify_changesByte rfl (lsrOp_eq _ s.p),
    exec_modify_changesByte rfl (rolOp_eq _ s.p),
    exec_modify_changesByte rfl (rorOp_eq _ s.p)⟩

/-- Settles O39: the opcode bytes compute, and both are a read-modify-write whose mask is the A of before. -/
theorem testAndChangeBits : Obligations.TestAndChangeBits :=
  ⟨fun _ _ => ⟨rfl, rfl, rfl, rfl⟩, fun m s =>
    ⟨readOperand_same (.mem m) s,
      exec_modify_changesByte (op := trbOp s.a) rfl rfl,
      exec_modify_changesByte (op := tsbOp s.a) rfl rfl⟩⟩

/-- An instruction that is RMBn clears bit `n` of the zero-page byte (R153). -/
theorem exec_clearsBit {i : Instr} {n : Nat} {z : Byte} {s : State}
    (run : exec i s = .next (modifyOperand (.mem (.zp z)) (rmbOp n) s)) :
    ∃ t r, exec i s = .next t ∧ ChangesByte (busRead (z.setWidth 16) s).2 t (z.setWidth 16) r ∧
      ∀ k < 8, r.getLsbD k = ((busRead (z.setWidth 16) s).1.getLsbD k && k != n) := by
  obtain ⟨t, answer, change⟩ := exec_modifyBits_changesByte run (fun _ _ => rfl)
  exact ⟨t, _, answer, change, fun _ => rmbOp_getLsbD _ s.p⟩

/-- An instruction that is SMBn sets bit `n` of the zero-page byte (R154). -/
theorem exec_setsBit {i : Instr} {n : Nat} {z : Byte} {s : State}
    (run : exec i s = .next (modifyOperand (.mem (.zp z)) (smbOp n) s)) :
    ∃ t r, exec i s = .next t ∧ ChangesByte (busRead (z.setWidth 16) s).2 t (z.setWidth 16) r ∧
      ∀ k < 8, r.getLsbD k = ((busRead (z.setWidth 16) s).1.getLsbD k || k == n) := by
  obtain ⟨t, answer, change⟩ := exec_modifyBits_changesByte run (fun _ _ => rfl)
  exact ⟨t, _, answer, change, fun _ => smbOp_getLsbD _ s.p⟩

/-- Settles O40: for each bit number the opcode byte computes, and the instruction is RMBn or SMBn by its dispatch. -/
theorem bitInstructionsChangeOneBit : Obligations.BitInstructionsChangeOneBit := by
  intro z s
  refine ⟨busRead_same _ s, ?clear, ?set⟩
  case clear =>
    simp only [List.forall_mem_cons]
    exact ⟨⟨rfl, exec_clearsBit rfl⟩, ⟨rfl, exec_clearsBit rfl⟩, ⟨rfl, exec_clearsBit rfl⟩, ⟨rfl, exec_clearsBit rfl⟩,
      ⟨rfl, exec_clearsBit rfl⟩, ⟨rfl, exec_clearsBit rfl⟩, ⟨rfl, exec_clearsBit rfl⟩, ⟨rfl, exec_clearsBit rfl⟩,
      List.forall_mem_nil _⟩
  case set =>
    simp only [List.forall_mem_cons]
    exact ⟨⟨rfl, exec_setsBit rfl⟩, ⟨rfl, exec_setsBit rfl⟩, ⟨rfl, exec_setsBit rfl⟩, ⟨rfl, exec_setsBit rfl⟩,
      ⟨rfl, exec_setsBit rfl⟩, ⟨rfl, exec_setsBit rfl⟩, ⟨rfl, exec_setsBit rfl⟩, ⟨rfl, exec_setsBit rfl⟩,
      List.forall_mem_nil _⟩

/-- The end of an operation on A and the byte read: the reads kept A and the flags, so both are those of `s`. -/
theorem next_setNZ_setA_of_same {s t : State} (h : s.SameButReads t) (f : Byte → Byte) :
    (.next (setNZ (f t.a) (t.setA (f t.a))) : StepResult) =
      .next { t with a := f s.a, p := { s.p with n := (f s.a).msb, z := f s.a == 0#8 } } := by
  rw [h.a_eq]
  exact next_setNZ_of_p_eq (u := t.setA (f s.a)) h.p_eq (f s.a)

/-- Settles O35: each puts into A its bit operation of A and the operand read. -/
theorem logicalOperationsOnA : Obligations.LogicalOperationsOnA := by
  intro o s m t put
  have same : s.SameButReads t := readOperand_same o s
  exact ⟨same,
    next_setNZ_setA_of_same same (· &&& m),
    next_setNZ_setA_of_same same (· ^^^ m),
    next_setNZ_setA_of_same same (· ||| m)⟩

/-- Settles O36: the Immediate form tests A of `s` itself, and in a memory mode the reads keep A and the flags tested. -/
theorem bitTestsOperand : Obligations.BitTestsOperand := by
  refine fun s => ⟨fun v => rfl, fun m => ?_⟩
  intro v t
  have same : s.SameButReads t := readOperand_same (.mem m) s
  have flags : t.p.bitTest t.a v = s.p.bitTest s.a v := by rw [same.p_eq, same.a_eq]
  exact ⟨same, congrArg (fun q => Host.Outcome.next (t.setP q)) flags⟩

/-- Settles O37: each accumulator form puts into A and P what its operation gives, which is known in arithmetic. -/
theorem shiftsOfTheAccumulator : Obligations.ShiftsOfTheAccumulator := fun s =>
  ⟨congrArg Host.Outcome.next (modifyOperand_acc (aslOp_eq s.a s.p)),
    congrArg Host.Outcome.next (modifyOperand_acc (lsrOp_eq s.a s.p)),
    congrArg Host.Outcome.next (modifyOperand_acc (rolOp_eq s.a s.p)),
    congrArg Host.Outcome.next (modifyOperand_acc (rorOp_eq s.a s.p))⟩

/-- Settles O41: the opcode byte computes, and the meaning is the identity. -/
theorem nopChangesNothing : Obligations.NopChangesNothing := ⟨rfl, fun _ => rfl⟩

end Sys2Proof.Machine

namespace Sys2Proof.Machine

/-! ## Binary addition and subtraction (44_math.md R160, R161) -/

/-- The outcome of an addition or subtraction in A and in the flags N, V, Z, C, on a state whose flags are still those of `s`. -/
theorem setSum_eq_of_p_eq {s u : State} (h : u.p = s.p) (r : Sum) :
    setSum r u =
      { u with a := r.value, p := { s.p with n := r.value.msb, z := r.value == 0#8, c := r.carry, v := r.overflow } } := by
  rw [setSum, h, Flags.ofSum, Flags.setNZ_eq]
  rfl

/-- With D = 0 the binary sum decides; the reads of the operand kept A and the flags, so it is that of the A and C of `s`. -/
theorem addOrSubtract_binary {binary decimal : Byte → Byte → Bool → Sum} {s u : State} {m : Byte} {r : Sum}
    (same : s.SameButReads u) (hd : s.p.d = false) (sum : binary s.a m s.p.c = r) :
    addOrSubtract binary decimal m u =
      .next { u with a := r.value, p := { s.p with n := r.value.msb, z := r.value == 0#8, c := r.carry, v := r.overflow } } := by
  have clear : ¬ u.p.d = true := by simp [same.p_eq, hd]
  rw [addOrSubtract, if_neg clear, same.a_eq, same.p_eq, sum, setSum_eq_of_p_eq same.p_eq]

/-- Settles O42: the binary sum is known in arithmetic. -/
theorem binaryAddWithCarry : Obligations.BinaryAddWithCarry := fun o s hd =>
  have same := readOperand_same o s
  ⟨same, addOrSubtract_binary same hd (adcBinary_eq s.a (readOperand o s).1 s.p.c)⟩

/-- Settles O43: the binary difference is known in arithmetic. -/
theorem binarySubtractWithBorrow : Obligations.BinarySubtractWithBorrow := fun o s hd =>
  have same := readOperand_same o s
  ⟨same, addOrSubtract_binary same hd (sbcBinary_eq s.a (readOperand o s).1 s.p.c)⟩

/-! ## The digits of a BCD byte (44_math.md R162) -/

/-- The low nibble is the units digit. -/
theorem and_lowNibble_toNat (v : Byte) : (v &&& 0x0F#8).toNat = v.toNat % 16 :=
  Nat.and_two_pow_sub_one_eq_mod v.toNat 4

/-- The high nibble, in its place, is sixteen times the tens digit. -/
theorem and_highNibble_toNat (v : Byte) : (v &&& 0xF0#8).toNat = 16 * (v.toNat / 16) := by
  revert v
  decide +kernel

theorem validBcd_iff (v : Byte) : validBcd v = true ↔ v.toNat / 16 ≤ 9 ∧ v.toNat % 16 ≤ 9 := by
  simp only [validBcd, and_lowNibble_toNat, and_highNibble_toNat, Bool.and_eq_true, decide_eq_true_eq]
  omega

/-- A byte made of two decimal digits is valid BCD of the number they write. -/
theorem validBcd_and_bcdValue_of_digits {v : Byte} {tens units : Nat} (ht : tens < 10) (hu : units < 10)
    (digits : v.toNat = 16 * tens + units) : validBcd v = true ∧ bcdValue v = 10 * tens + units := by
  rw [validBcd_iff, bcdValue]
  omega

/-- Decimal addition with a carry between the digits, modulo 100. -/
theorem add_digits_mod_hundred (tens units : Nat) :
    10 * ((tens + units / 10) % 10) + units % 10 = (10 * tens + units) % 100 := by
  omega

/-! ## Decimal addition and subtraction of valid BCD (44_math.md R162, R163) -/

/-- The decimal addition by digits: the correction by 6 makes a units sum of ten or more a digit and a carry into the tens, and the
one by `$60` makes a tens sum of ten or more a digit and the carry out. -/
theorem adcDecimal_of_digits {a m : Byte} {c : Bool} {units tens : Nat}
    (hu : a.toNat % 16 + m.toNat % 16 + c.toNat = units) (ht : a.toNat / 16 + m.toNat / 16 + units / 10 = tens)
    (hu20 : units < 20) (ht20 : tens < 20) :
    (adcDecimal a m c).value.toNat = 16 * (tens % 10) + units % 10 ∧ (adcDecimal a m c).carry = decide (10 ≤ tens) := by
  simp only [adcDecimal, and_lowNibble_toNat, and_highNibble_toNat, hu, BitVec.toNat_ofNat, decide_eq_decide]
  have low : (if 10 ≤ units then (units + 6) % 16 + 16 else units) = 16 * (units / 10) + units % 10 := by split <;> omega
  have sum : 16 * (a.toNat / 16) + 16 * (m.toNat / 16) + (16 * (units / 10) + units % 10) = 16 * tens + units % 10 := by omega
  simp only [low, sum]
  split
  · have carry : tens / 10 = 1 := by omega
    omega
  · have noCarry : tens / 10 = 0 := by omega
    omega

/-- Decimal addition of valid BCD: the BCD byte of the decimal sum modulo 100, and the carry above 99. -/
theorem adcDecimal_of_validBcd {a m : Byte} (c : Bool) (ha : validBcd a = true) (hm : validBcd m = true) :
    (adcDecimal a m c).carry = decide (99 < bcdValue a + bcdValue m + c.toNat) ∧
    validBcd (adcDecimal a m c).value = true ∧
    bcdValue (adcDecimal a m c).value = (bcdValue a + bcdValue m + c.toNat) % 100 := by
  have hc : c.toNat ≤ 1 := Bool.toNat_le c
  rw [validBcd_iff] at ha hm
  obtain ⟨digits, carry⟩ := adcDecimal_of_digits (a := a) (m := m) (c := c) rfl rfl (by omega) (by omega)
  obtain ⟨valid, number⟩ := validBcd_and_bcdValue_of_digits (Nat.mod_lt _ (by decide)) (Nat.mod_lt _ (by decide)) digits
  have sum : bcdValue a + bcdValue m + c.toNat =
      10 * (a.toNat / 16 + m.toNat / 16) + (a.toNat % 16 + m.toNat % 16 + c.toNat) := by simp only [bcdValue]; omega
  refine ⟨?_, valid, by rw [number, add_digits_mod_hundred, sum]⟩
  rw [carry, sum, decide_eq_decide]
  omega

/-- The byte of the decimal subtraction by digits, each of them with ten lent to it in advance: the corrections by 6 and by `$60`
take back what the units and the tens did not need. -/
theorem sbcDecimal_value_of_digits {a m : Byte} {c : Bool} {units tens : Nat}
    (hu : 10 + a.toNat % 16 = m.toNat % 16 + (1 - c.toNat) + units) (ht : 9 + a.toNat / 16 + units / 10 = m.toNat / 16 + tens)
    (hu20 : units < 20) (ht20 : tens < 20) :
    (sbcDecimal a m c).value.toNat = 16 * (tens % 10) + units % 10 := by
  have hc : c.toNat ≤ 1 := Bool.toNat_le c
  simp only [sbcDecimal, and_lowNibble_toNat, BitVec.toNat_ofInt]
  have low : ((a.toNat % 16 : Nat) : Int) - (m.toNat % 16 : Nat) + c.toNat - 1 = (units : Int) - 10 := by omega
  have difference : (a.toNat : Int) - m.toNat + c.toNat - 1 = 16 * ((tens : Int) - 9 - units / 10) + (units - 10) := by omega
  simp only [low, difference]
  split <;> split <;> omega

/-- Decimal subtraction of valid BCD: the BCD byte of the decimal difference modulo 100. The carry is the binary one, which tells the
decimal borrow too, for the digits order the bytes as they order the numbers. -/
theorem sbcDecimal_of_validBcd {a m : Byte} (c : Bool) (ha : validBcd a = true) (hm : validBcd m = true) :
    (sbcDecimal a m c).carry = decide (bcdValue m + (1 - c.toNat) ≤ bcdValue a) ∧
    validBcd (sbcDecimal a m c).value = true ∧
    bcdValue (sbcDecimal a m c).value = (100 + bcdValue a - bcdValue m - (1 - c.toNat)) % 100 := by
  rw [validBcd_iff] at ha hm
  obtain ⟨units, hu⟩ : ∃ units, 10 + a.toNat % 16 = m.toNat % 16 + (1 - c.toNat) + units := Nat.exists_eq_add_of_le (by omega)
  obtain ⟨tens, ht⟩ : ∃ tens, 9 + a.toNat / 16 = m.toNat / 16 + tens := Nat.exists_eq_add_of_le (by omega)
  have digits := sbcDecimal_value_of_digits (tens := tens + units / 10) hu (by omega) (by omega) (by omega)
  obtain ⟨valid, number⟩ := validBcd_and_bcdValue_of_digits (Nat.mod_lt _ (by decide)) (Nat.mod_lt _ (by decide)) digits
  have difference : 100 + bcdValue a - bcdValue m - (1 - c.toNat) = 10 * tens + units := by simp only [bcdValue]; omega
  refine ⟨?_, valid, by rw [number, add_digits_mod_hundred, difference]⟩
  have carry : (sbcDecimal a m c).carry = decide (m.toNat + (1 - c.toNat) ≤ a.toNat) := congrArg Sum.carry (sbcBinary_eq a m c)
  rw [carry, decide_eq_decide, bcdValue, bcdValue]
  omega

/-- With D = 1 and valid BCD the decimal sum decides A and N, Z, C, and one draw decides V (log 4). -/
theorem addOrSubtract_decimal_of_valid {binary decimal : Byte → Byte → Bool → Sum} {s u : State} {m : Byte} {r : Sum}
    (same : s.SameButReads u) (hd : s.p.d = true) (ha : validBcd s.a = true) (hm : validBcd m = true)
    (sum : decimal s.a m s.p.c = r) :
    ∃ t, addOrSubtract binary decimal m u = .next t ∧
      t = { u with a := t.a, p := { s.p with n := t.a.msb, z := t.a == 0#8, c := r.carry, v := t.p.v }, draws := u.draws + 1 } ∧
      t.a = r.value := by
  have valid : (validBcd s.a && validBcd m) = true := by rw [ha, hm]; rfl
  have drawn : (drawBit u).2.p = s.p := same.p_eq
  have run : addOrSubtract binary decimal m u = .next (setSum { r with overflow := (drawBit u).1 } (drawBit u).2) := by
    rw [addOrSubtract, same.p_eq, if_pos hd, Config.decimalPolicy, decimalSum, same.a_eq, same.p_eq, if_pos valid, sum]
  rw [setSum_eq_of_p_eq drawn] at run
  exact ⟨_, run, rfl, rfl⟩

/-- Settles O44: the carry and the byte of the decimal addition are known in decimal arithmetic. -/
theorem decimalAddOfValidBcd : Obligations.DecimalAddOfValidBcd := by
  intro o s hd ha hm m u sum
  have same : s.SameButReads u := readOperand_same o s
  obtain ⟨carry, valid, number⟩ := adcDecimal_of_validBcd s.p.c ha hm
  obtain ⟨t, run, frame, value⟩ := addOrSubtract_decimal_of_valid (binary := adcBinary) (decimal := adcDecimal) same hd ha hm rfl
  rw [carry] at frame
  rw [← value] at valid number
  exact ⟨same, t, run, frame, valid, number⟩

/-- Settles O45: the carry and the byte of the decimal subtraction are known in decimal arithmetic. -/
theorem decimalSubtractOfValidBcd : Obligations.DecimalSubtractOfValidBcd := by
  intro o s hd ha hm m u borrow
  have same : s.SameButReads u := readOperand_same o s
  obtain ⟨carry, valid, number⟩ := sbcDecimal_of_validBcd s.p.c ha hm
  obtain ⟨t, run, frame, value⟩ := addOrSubtract_decimal_of_valid (binary := sbcBinary) (decimal := sbcDecimal) same hd ha hm rfl
  rw [carry] at frame
  rw [← value] at valid number
  exact ⟨same, t, run, frame, valid, number⟩

/-! ## Decimal addition and subtraction of invalid BCD (log 4) -/

/-- With D = 1 and a byte that is no valid BCD, two draws decide A and N, V, Z, C, whatever the algorithm (log 4). -/
theorem addOrSubtract_decimal_of_invalid {binary decimal : Byte → Byte → Bool → Sum} {s u : State} {m : Byte}
    (same : s.SameButReads u) (hd : s.p.d = true) (invalid : (validBcd s.a && validBcd m) = false) :
    ∃ t, addOrSubtract binary decimal m u = .next t ∧
      t = { u with a := t.a, p := { s.p with n := t.p.n, v := t.p.v, z := t.p.z, c := t.p.c }, draws := u.draws + 2 } := by
  have notValid : ¬ (validBcd s.a && validBcd m) = true := by simp [invalid]
  rw [addOrSubtract, same.p_eq, if_pos hd, Config.decimalPolicy, decimalSum, same.a_eq, same.p_eq, if_neg notValid]
  exact ⟨_, rfl, rfl⟩

/-- Settles O46: ADC and SBC are alike here, for the algorithm is not asked. -/
theorem decimalOfInvalidBcdCompletes : Obligations.DecimalOfInvalidBcdCompletes := by
  intro o s hd invalid u
  have same : s.SameButReads u := readOperand_same o s
  refine ⟨same, ?_⟩
  simp only [List.forall_mem_cons]
  exact ⟨addOrSubtract_decimal_of_invalid same hd invalid, addOrSubtract_decimal_of_invalid same hd invalid, List.forall_mem_nil _⟩

/-! ## Compares (44_math.md R164 to R166) -/

theorem Flags.compare_eq (p : Flags) (reg m : Byte) :
    p.compare reg m = { p with c := decide (m.toNat ≤ reg.toNat), z := decide (reg = m), n := (reg - m).msb } := by
  rw [Flags.compare, bitOf_seven, beq_eq_decide]

/-- The end of a compare: the reads kept the flags and the register. -/
theorem next_compare_of_same {s t : State} {r reg : Byte} (h : s.SameButReads t) (kept : r = reg) (m : Byte) :
    (.next (t.setP (t.p.compare r m)) : StepResult) =
      .next { t with p := { s.p with c := decide (m.toNat ≤ reg.toNat), z := decide (reg = m), n := (reg - m).msb } } := by
  rw [h.p_eq, kept, Flags.compare_eq]
  rfl

/-- Settles O47: the three compares differ in the register alone. -/
theorem comparesSetCarryZeroNegative : Obligations.ComparesSetCarryZeroNegative := by
  intro o s m t compared
  have same : s.SameButReads t := readOperand_same o s
  exact ⟨same, next_compare_of_same same same.a_eq m, next_compare_of_same same same.x_eq m, next_compare_of_same same same.y_eq m⟩

/-! ## Increments and decrements (44_math.md R167 to R172) -/

/-- Settles O48: INC and DEC are read-modify-writes by plus and minus one. -/
theorem incrementsAndDecrements : Obligations.IncrementsAndDecrements := fun m s =>
  ⟨readOperand_same (.mem m) s,
    congrArg Host.Outcome.next (modifyOperand_acc (incOp_eq s.a s.p)),
    congrArg Host.Outcome.next (modifyOperand_acc (decOp_eq s.a s.p)),
    exec_modify_changesByte rfl (incOp_eq _ s.p),
    exec_modify_changesByte rfl (decOp_eq _ s.p)⟩

/-- Settles O49: the opcode bytes compute; each steps its register and sets N and Z from the value written. -/
theorem indexRegisterSteps : Obligations.IndexRegisterSteps := by
  refine ⟨⟨rfl, rfl, rfl, rfl⟩, fun s => ⟨?inx, ?iny, ?dex, ?dey⟩⟩
  case inx => exact next_setNZ_of_p_eq (u := s.setX (s.x + 1)) (s.setX_p _) _
  case iny => exact next_setNZ_of_p_eq (u := s.setY (s.y + 1)) (s.setY_p _) _
  case dex => exact next_setNZ_of_p_eq (u := s.setX (s.x - 1)) (s.setX_p _) _
  case dey => exact next_setNZ_of_p_eq (u := s.setY (s.y - 1)) (s.setY_p _) _

end Sys2Proof.Machine

namespace Sys2Proof.Machine

/-! ## Relative branches (45_branch.md R180 to R188, 46_flow.md R200) -/

theorem branchIf_eq (taken : Bool) (d : Byte) (s : State) :
    branchIf taken d s = { s with pc := if taken then s.pc + d.signExtend 16 else s.pc } := by
  cases taken <;> rfl

/-- An instruction that is a relative branch changes PC alone, by the displacement if it is taken. -/
theorem exec_branchIf {i : Instr} {taken : Bool} {d : Byte} {s : State} (run : exec i s = .next (branchIf taken d s)) :
    exec i s = .next { s with pc := if taken then s.pc + d.signExtend 16 else s.pc } := by
  rw [run, branchIf_eq]

/-- Settles O50: for each mnemonic the opcode byte computes, and the instruction is a relative branch on its flag by its dispatch. -/
theorem relativeBranches : Obligations.RelativeBranches := by
  intro d s dest
  simp only [List.forall_mem_cons]
  exact ⟨⟨rfl, exec_branchIf rfl⟩, ⟨rfl, exec_branchIf rfl⟩, ⟨rfl, exec_branchIf rfl⟩, ⟨rfl, exec_branchIf rfl⟩,
    ⟨rfl, exec_branchIf rfl⟩, ⟨rfl, exec_branchIf rfl⟩, ⟨rfl, exec_branchIf rfl⟩, ⟨rfl, exec_branchIf rfl⟩,
    ⟨rfl, exec_branchIf rfl⟩, List.forall_mem_nil _⟩

/-! ## Branches on a bit of memory (45_branch.md R189, R190) -/

/-- The read leaves PC as it was, so the branch is relative to the PC of before. -/
theorem branchOnBit_eq (n : Nat) (want : Bool) (z d : Byte) (s : State) :
    branchOnBit n want z d s =
      { (busRead (z.setWidth 16) s).2 with
        pc := if (busRead (z.setWidth 16) s).1.getLsbD n == want then s.pc + d.signExtend 16 else s.pc } := by
  rw [← busRead_pc (z.setWidth 16) s]
  exact branchIf_eq _ d _

/-- An instruction that is BBRn is taken where bit `n` of the byte read is 0 (R189). -/
theorem exec_branchOnBit_clear {i : Instr} {n : Nat} {z d : Byte} {s : State} (run : exec i s = .next (branchOnBit n false z d s)) :
    exec i s = .next { (busRead (z.setWidth 16) s).2 with
      pc := if (busRead (z.setWidth 16) s).1.getLsbD n then s.pc else s.pc + d.signExtend 16 } := by
  rw [run, branchOnBit_eq]
  cases (busRead (z.setWidth 16) s).1.getLsbD n <;> rfl

/-- An instruction that is BBSn is taken where bit `n` of the byte read is 1 (R190). -/
theorem exec_branchOnBit_set {i : Instr} {n : Nat} {z d : Byte} {s : State} (run : exec i s = .next (branchOnBit n true z d s)) :
    exec i s = .next { (busRead (z.setWidth 16) s).2 with
      pc := if (busRead (z.setWidth 16) s).1.getLsbD n then s.pc + d.signExtend 16 else s.pc } := by
  rw [run, branchOnBit_eq, beq_true]

/-- Settles O51: for each bit number the opcode byte computes, and the instruction is BBRn or BBSn by its dispatch. -/
theorem branchesOnMemoryBit : Obligations.BranchesOnMemoryBit := by
  intro z d s m t
  refine ⟨busRead_same _ s, ?clear, ?set⟩
  case clear =>
    simp only [List.forall_mem_cons]
    exact ⟨⟨rfl, exec_branchOnBit_clear rfl⟩, ⟨rfl, exec_branchOnBit_clear rfl⟩, ⟨rfl, exec_branchOnBit_clear rfl⟩,
      ⟨rfl, exec_branchOnBit_clear rfl⟩, ⟨rfl, exec_branchOnBit_clear rfl⟩, ⟨rfl, exec_branchOnBit_clear rfl⟩,
      ⟨rfl, exec_branchOnBit_clear rfl⟩, ⟨rfl, exec_branchOnBit_clear rfl⟩, List.forall_mem_nil _⟩
  case set =>
    simp only [List.forall_mem_cons]
    exact ⟨⟨rfl, exec_branchOnBit_set rfl⟩, ⟨rfl, exec_branchOnBit_set rfl⟩, ⟨rfl, exec_branchOnBit_set rfl⟩,
      ⟨rfl, exec_branchOnBit_set rfl⟩, ⟨rfl, exec_branchOnBit_set rfl⟩, ⟨rfl, exec_branchOnBit_set rfl⟩,
      ⟨rfl, exec_branchOnBit_set rfl⟩, ⟨rfl, exec_branchOnBit_set rfl⟩, List.forall_mem_nil _⟩

end Sys2Proof.Machine

namespace Sys2Proof.Machine

/-! ## Jumps (46_flow.md R201, R202) -/

theorem State.SameButReads.setPc {s t : State} (h : s.SameButReads t) (v : Word) : (s.setPc v).SameButReads (t.setPc v) :=
  congrArg (State.setPc · v) h

/-- A jump through a pointer changes PC alone, and what the pointer's reads change. -/
theorem jumpThrough_same (ptr : Word) (s : State) : (s.setPc (jumpThrough ptr s).pc).SameButReads (jumpThrough ptr s) :=
  (read16_same ptr s).setPc _

/-- An instruction that jumps through a pointer in plain memory goes to the word there, and changes PC alone. -/
theorem exec_jumpThrough_plain {i : Instr} {ptr : Word} {s : State} (run : exec i s = .next (jumpThrough ptr s))
    (lo : s.isPlain ptr) (hi : s.isPlain (ptr + 1)) :
    exec i s = .next { s with pc := s.byteAt (ptr + 1) ++ s.byteAt ptr } := by
  rw [run, jumpThrough, read16_plain lo hi]
  rfl

/-- Settles O52: the Absolute form writes PC, and the two others jump through a pointer, Indirect under the policy `cmos` (log 3). -/
theorem jumpTargets : Obligations.JumpTargets := by
  intro w s
  exact ⟨rfl, ⟨_, rfl, jumpThrough_same w s⟩, ⟨_, rfl, jumpThrough_same _ s⟩,
    exec_jumpThrough_plain rfl, exec_jumpThrough_plain rfl⟩

/-! ## STP and WAI (46_flow.md R207, R208) -/

/-- Settles O56: the opcode bytes compute, and each meaning is the update of its one field. -/
theorem stpStopsAndWaiWaits : Obligations.StpStopsAndWaiWaits := ⟨rfl, rfl, fun _ => ⟨rfl, rfl⟩⟩

end Sys2Proof.Machine

namespace Sys2Proof.Machine

/-! ## Addresses in the stack page (10_state.md R12) -/

/-- Different values of S designate different stack bytes. -/
@[simp] theorem stackAddr_inj {p q : Byte} : stackAddr p = stackAddr q ↔ p = q :=
  ⟨fun h => by simpa only [stackAddr, loByte_word] using congrArg loByte h, congrArg stackAddr⟩

/-- An address outside page one is no stack address. -/
theorem ne_stackAddr_of_hiByte {a : Word} (h : hiByte a ≠ 0x01#8) (sp : Byte) : a ≠ stackAddr sp := fun e =>
  h (by rw [e, stackAddr, hiByte_word])

/-- The vectors lie outside the stack page (20_memory.md R36). -/
theorem vector_ne_stackAddr (c : Cause) (sp : Byte) : c.vector ≠ stackAddr sp ∧ c.vector + 1 ≠ stackAddr sp := by
  constructor <;> refine ne_stackAddr_of_hiByte ?_ sp <;> cases c <;> decide

/-! ## Pushing and pulling a word (46_flow.md R203 to R205) -/

/-- States that agree in every part are equal. -/
theorem State.ext_parts {s t : State} (a : s.a = t.a) (x : s.x = t.x) (y : s.y = t.y) (sp : s.sp = t.sp) (pc : s.pc = t.pc)
    (p : s.p = t.p) (mem : s.mem = t.mem) (memMap : s.memMap = t.memMap) (nmiPending : s.nmiPending = t.nmiPending)
    (waiting : s.waiting = t.waiting) (stopped : s.stopped = t.stopped) (irqLine : s.irqLine = t.irqLine)
    (maskEdge : s.maskEdge = t.maskEdge) (inputs : s.inputs = t.inputs) (deviceLog : s.deviceLog = t.deviceLog)
    (draws : s.draws = t.draws) : s = t := by
  cases s
  cases t
  congr

/-- What is RAM in `s` is RAM, and so plain, in every state with the map of `s`. -/
theorem State.isPlain_of_isRam_of_memMap_eq {s t : State} {a : Word} (map : t.memMap = s.memMap) (ram : s.isRam a) : t.isPlain a :=
  State.isPlain_of_isRam (by rwa [State.isRam, map])

/-- A byte handed to RAM is no device access. -/
theorem State.handed_of_isRam {s : State} {a : Word} (h : s.isRam a) (v : Byte) : s.handed a v = [] := by
  simp [State.handed, show s.memMap.regionAt a.toNat = .ram from h]

/-- A push leaves the byte in RAM at the address S designated. -/
theorem push8_byteAt_same {s : State} (v : Byte) (ram : s.isRam (stackAddr s.sp)) : (push8 v s).byteAt (stackAddr s.sp) = v :=
  busWrite_byteAt_same v ram

theorem push8_byteAt_other {b : Word} (v : Byte) {s : State} (h : b ≠ stackAddr s.sp) : (push8 v s).byteAt b = s.byteAt b :=
  busWrite_byteAt_other v s h

/-- The high byte of a word pushed is at the address S designated, which the second push leaves alone. -/
theorem push16_byteAt_high {s : State} (w : Word) (ram : s.isRam (stackAddr s.sp)) :
    (push16 w s).byteAt (stackAddr s.sp) = hiByte w := by
  have apart : stackAddr s.sp ≠ stackAddr (push8 (hiByte w) s).sp := by
    rw [push8_sp, ne_eq, stackAddr_inj]
    bv_omega
  rw [push16, push8_byteAt_other _ apart, push8_byteAt_same _ ram]

/-- The low byte of a word pushed is one below. -/
theorem push16_byteAt_low {s : State} (w : Word) (ram : s.isRam (stackAddr (s.sp - 1))) :
    (push16 w s).byteAt (stackAddr (s.sp - 1)) = loByte w := by
  have second := push8_byteAt_same (s := push8 (hiByte w) s) (loByte w)
  rw [push8_sp] at second
  exact second (by rwa [State.isRam, push8_memMap])

/-- The device accesses of a word pushed, the high byte's first. -/
theorem push16_deviceLog (w : Word) (s : State) :
    (push16 w s).deviceLog =
      s.handed (stackAddr (s.sp - 1)) (loByte w) ++ s.handed (stackAddr s.sp) (hiByte w) ++ s.deviceLog := by
  rw [push16, push8_deviceLog, push8_deviceLog, push8_sp, State.handed_congr (push8_memMap _ s), List.append_assoc]

/-- Pushing a word moves S down by two. -/
theorem push16_sp_sub_two (w : Word) (s : State) : (push16 w s).sp = s.sp - 2 := by rw [push16_sp]; bv_omega

/-- Pushing a word changes S, memory and the device accesses, and draws no free value. -/
theorem push16_frame (w : Word) (s : State) :
    push16 w s = { s with sp := s.sp - 2, mem := (push16 w s).mem, deviceLog := (push16 w s).deviceLog } := by
  apply State.ext_parts
  case sp => exact push16_sp_sub_two w s
  all_goals simp

theorem pull16_sp_add_two (s : State) : (pull16 s).2.sp = s.sp + 2 := by rw [pull16_sp]; bv_omega

/-- Pulling a word moves S up by two, and otherwise does what reads do. -/
theorem pull16_same (s : State) : (s.setSp (s.sp + 2)).SameButReads (pull16 s).2 := by
  apply State.ext_parts
  case sp => exact pull16_sp_add_two s
  all_goals simp

/-- A word pulled from plain memory, low byte first. -/
theorem pull16_plain {s : State} (lo : s.isPlain (stackAddr (s.sp + 1))) (hi : s.isPlain (stackAddr (s.sp + 2))) :
    pull16 s = (word (s.byteAt (stackAddr (s.sp + 2))) (s.byteAt (stackAddr (s.sp + 1))), s.setSp (s.sp + 2)) := by
  have up : s.sp + 2 = s.sp + 1 + 1 := by bv_omega
  rw [up] at hi ⊢
  have second := pull8_plain (s := s.setSp (s.sp + 1)) hi
  simp only [pull16, pull8_plain lo, second]
  rfl

/-- Pulling a word gives back the word pushed into RAM and the S of before the push, from any state that still has the memory, the
map and the S that the push left. -/
theorem pull16_after_push16 {s t : State} (w : Word) (high : s.isRam (stackAddr s.sp)) (low : s.isRam (stackAddr (s.sp - 1)))
    (mem : t.mem = (push16 w s).mem) (map : t.memMap = (push16 w s).memMap) (sp : t.sp = (push16 w s).sp) :
    pull16 t = (w, t.setSp s.sp) := by
  rw [push16_sp_sub_two] at sp
  rw [push16_memMap] at map
  have first : t.sp + 1 = s.sp - 1 := by rw [sp]; bv_omega
  have second : t.sp + 2 = s.sp := by rw [sp]; bv_omega
  have pushed (b : Word) : t.byteAt b = (push16 w s).byteAt b := congrArg (Memory.read · b.toNat) mem
  have pulled := pull16_plain (s := t) (first ▸ State.isPlain_of_isRam_of_memMap_eq map low)
    (second ▸ State.isPlain_of_isRam_of_memMap_eq map high)
  rwa [first, second, pushed, pushed, push16_byteAt_high w high, push16_byteAt_low w low, word_hiByte_loByte] at pulled

/-! ## JSR and RTS (46_flow.md R203, R205) -/

theorem exec_jsr (w : Word) (s : State) : exec (.jsr w) s = .next ((push16 (s.pc - 1) s).setPc w) := rfl

/-- Settles O53: JSR is one push of a word, then a write of PC. -/
theorem jsrPushesReturnAddressMinusOne : Obligations.JsrPushesReturnAddressMinusOne := by
  intro w s
  refine ⟨rfl, _, exec_jsr w s, ?frame, fun b h => ?others, push16_byteAt_high _, push16_byteAt_low _⟩
  case frame =>
    have pushed := push16_frame (s.pc - 1) s
    rw [push16_deviceLog] at pushed
    exact congrArg (State.setPc · w) pushed
  case others => exact push16_bytes (s.pc - 1) s b (by simpa only [List.mem_cons, List.not_mem_nil, or_false, not_or] using h)

theorem exec_rts (s : State) : exec .rts s = .next ((pull16 s).2.setPc ((pull16 s).1 + 1)) := rfl

/-- An RTS whose two bytes are plain continues at the word there plus 1, and changes nothing but S and PC. -/
theorem exec_rts_plain {s : State} (lo : s.isPlain (stackAddr (s.sp + 1))) (hi : s.isPlain (stackAddr (s.sp + 2))) :
    exec .rts s = .next { s with
      sp := s.sp + 2
      pc := word (s.byteAt (stackAddr (s.sp + 2))) (s.byteAt (stackAddr (s.sp + 1))) + 1 } := by
  rw [exec_rts, pull16_plain lo hi]
  rfl

/-- Settles O54: RTS is one pull of a word, then a write of PC. -/
theorem rtsContinuesAfterPulledAddress : Obligations.RtsContinuesAfterPulledAddress :=
  ⟨rfl, fun s => ⟨⟨_, rfl, (pull16_same s).setPc _⟩, exec_rts_plain⟩⟩

/-- Settles O55: RTS pulls the PC - 1 that JSR pushed, and RAM makes no device access. -/
theorem rtsUndoesJsr : Obligations.RtsUndoesJsr := by
  intro w s high low
  have pulled := pull16_after_push16 (t := (push16 (s.pc - 1) s).setPc w) (s.pc - 1) high low rfl rfl rfl
  have returned : exec .rts ((push16 (s.pc - 1) s).setPc w) = .next (((push16 (s.pc - 1) s).setSp s.sp).setPc s.pc) := by
    rw [exec_rts, pulled, BitVec.sub_add_cancel]
    rfl
  refine ⟨_, _, exec_jsr w s, returned, ?_⟩
  apply State.ext_parts
  case deviceLog =>
    rw [State.setPc_deviceLog, State.setSp_deviceLog, push16_deviceLog, State.handed_of_isRam high, State.handed_of_isRam low]
    rfl
  all_goals simp

end Sys2Proof.Machine

namespace Sys2Proof.Machine

/-! ## BRK and RTI (46_flow.md R204, R206, 60_exceptions.md R236) -/

theorem not_mem_frameAddrs {b : Word} {s : State} :
    b ∉ frameAddrs s ↔ b ≠ stackAddr s.sp ∧ b ≠ stackAddr (s.sp - 1) ∧ b ≠ stackAddr (s.sp - 2) := by
  simp only [frameAddrs, List.mem_cons, List.not_mem_nil, or_false, not_or, ne_eq]

/-- The state on which an entry reads its vector has the memory, the map, the accesses and the draws that the three pushes left. -/
theorem enterException_reads_vector (c : Cause) (ret : Word) (s : State) :
    ∃ u, enterException c ret s = (read16 c.vector u).2.setPc (read16 c.vector u).1 ∧
      u.mem = (push8 (s.p.image c.bBit) (push16 ret s)).mem ∧ u.memMap = s.memMap ∧
      u.deviceLog = (push8 (s.p.image c.bBit) (push16 ret s)).deviceLog ∧ u.draws = s.draws := by
  refine ⟨_, rfl, ?_⟩
  cases c <;> simp

theorem enterException_sp_sub_three (c : Cause) (ret : Word) (s : State) : (enterException c ret s).sp = s.sp - 3 := by
  rw [enterException_sp]; bv_omega

/-- An entry whose vector is plain: PC is the word there, the device accesses are the pushes', and no free value is drawn. -/
theorem enterException_plain {c : Cause} {s : State} (ret : Word) (lo : s.isPlain c.vector) (hi : s.isPlain (c.vector + 1)) :
    (enterException c ret s).pc = word (s.byteAt (c.vector + 1)) (s.byteAt c.vector) ∧
    (enterException c ret s).draws = s.draws ∧
    (enterException c ret s).deviceLog =
      s.handed (stackAddr (s.sp - 2)) (s.p.image c.bBit) ++ s.handed (stackAddr (s.sp - 1)) (loByte ret) ++
        s.handed (stackAddr s.sp) (hiByte ret) ++ s.deviceLog := by
  obtain ⟨u, entry, mem, map, accesses, draws⟩ := enterException_reads_vector c ret s
  have kept {a : Word} (outside : ∀ sp, a ≠ stackAddr sp) : u.byteAt a = s.byteAt a := by
    have same := enterException_bytes c ret s a (.inl (not_mem_frameAddrs.mpr ⟨outside _, outside _, outside _⟩))
    rwa [State.byteAt, enterException_mem, ← mem] at same
  have plain {a : Word} (h : s.isPlain a) : u.isPlain a := by rwa [State.isPlain, map]
  rw [entry, read16_plain (plain lo) (plain hi), kept fun sp => (vector_ne_stackAddr c sp).1,
    kept fun sp => (vector_ne_stackAddr c sp).2]
  refine ⟨rfl, draws, ?_⟩
  simp only [State.setPc_deviceLog, accesses, push8_deviceLog, push16_deviceLog, push16_sp_sub_two,
    State.handed_congr (push16_memMap ret s), List.append_assoc]

/-- The return address and the image that an entry leaves, where they go to RAM. -/
theorem enterException_frame (c : Cause) (ret : Word) (s : State) :
    (s.isRam (stackAddr s.sp) → (enterException c ret s).byteAt (stackAddr s.sp) = hiByte ret) ∧
    (s.isRam (stackAddr (s.sp - 1)) → (enterException c ret s).byteAt (stackAddr (s.sp - 1)) = loByte ret) ∧
    (s.isRam (stackAddr (s.sp - 2)) → (enterException c ret s).byteAt (stackAddr (s.sp - 2)) = s.p.image c.bBit) := by
  have pushed (b : Word) : (enterException c ret s).byteAt b = (push8 (s.p.image c.bBit) (push16 ret s)).byteAt b :=
    congrArg (Memory.read · b.toNat) (enterException_mem c ret s)
  have third := push8_byteAt_same (s := push16 ret s) (s.p.image c.bBit)
  rw [push16_sp_sub_two] at third
  have apart {p : Byte} (h : p ≠ s.sp - 2) : stackAddr p ≠ stackAddr (push16 ret s).sp := by
    rwa [push16_sp_sub_two, ne_eq, stackAddr_inj]
  refine ⟨fun ram => ?high, fun ram => ?low, fun ram => ?image⟩
  case high => rw [pushed, push8_byteAt_other _ (apart (by bv_omega)), push16_byteAt_high _ ram]
  case low => rw [pushed, push8_byteAt_other _ (apart (by bv_omega)), push16_byteAt_low _ ram]
  case image => rw [pushed, third (by rwa [State.isRam, push16_memMap])]

/-- Settles O20: BRK is the entry by its dispatch; its vector is plain, so the entry is known part by part. -/
theorem brkTakesItsException : Obligations.BrkTakesItsException := by
  refine ⟨rfl, fun s => ⟨rfl, fun ram lo hi => ?_⟩⟩
  obtain ⟨pc, draws, accesses⟩ := enterException_plain (c := .brk) (s.pc + 1) lo hi
  obtain ⟨high, low, image⟩ := enterException_frame .brk (s.pc + 1) s
  obtain ⟨highRam, lowRam, imageRam⟩ := ram
  have noAccess : (enterException .brk (s.pc + 1) s).deviceLog = s.deviceLog := by
    rw [accesses, State.handed_of_isRam highRam, State.handed_of_isRam lowRam, State.handed_of_isRam imageRam]
    rfl
  refine ⟨_, rfl, ?frame, high highRam, low lowRam, image imageRam, fun b h0 h1 h2 => ?others⟩
  case frame =>
    apply State.ext_parts
    case sp => exact enterException_sp_sub_three _ _ s
    case pc => exact pc
    case deviceLog => exact noAccess
    case draws => exact draws
    all_goals simp
  case others => exact enterException_bytes _ _ s b (.inl (not_mem_frameAddrs.mpr ⟨h0, h1, h2⟩))

theorem returnFromException_sp_add_three (s : State) : (returnFromException s).sp = s.sp + 3 := by
  rw [returnFromException_sp]; bv_omega

/-- A return whose three bytes are plain: P is loaded from the first, PC is the word of the next two. -/
theorem returnFromException_plain {s : State} (frame : s.FramePlain) :
    returnFromException s = { s with
      sp := s.sp + 3
      p := Flags.ofByte (s.byteAt (stackAddr (s.sp + 1)))
      pc := word (s.byteAt (stackAddr (s.sp + 3))) (s.byteAt (stackAddr (s.sp + 2))) } := by
  obtain ⟨image, lo, hi⟩ := frame
  have second : s.sp + 2 = s.sp + 1 + 1 := by bv_omega
  have third : s.sp + 3 = s.sp + 1 + 2 := by bv_omega
  rw [second] at lo ⊢
  rw [third] at hi ⊢
  have ret := pull16_plain (s := (s.setSp (s.sp + 1)).setP (Flags.ofByte (s.byteAt (stackAddr (s.sp + 1))))) lo hi
  simp only [returnFromException, pull8_plain image, ret]
  rfl

/-- Settles O21: RTI is the return by its dispatch, which writes S, P and PC. -/
theorem rtiPullsFlagsAndPc : Obligations.RtiPullsFlagsAndPc := by
  refine ⟨rfl, fun s => ⟨⟨_, rfl, ?_⟩, fun frame => congrArg Host.Outcome.next (returnFromException_plain frame)⟩⟩
  apply State.ext_parts
  case sp => exact returnFromException_sp_add_three s
  all_goals simp

/-- A return from an entry whose frame is in RAM: PC is the return address, S and the flags are those of before (R15). -/
theorem returnFromException_enterException {s : State} (c : Cause) (ret : Word) (ram : s.StackInRam) :
    returnFromException (enterException c ret s) = { enterException c ret s with sp := s.sp, p := s.p, pc := ret } := by
  obtain ⟨high, low, image⟩ := enterException_frame c ret s
  obtain ⟨highRam, lowRam, imageRam⟩ := ram
  have first : (enterException c ret s).sp + 1 = s.sp - 2 := by rw [enterException_sp_sub_three]; bv_omega
  have second : (enterException c ret s).sp + 2 = s.sp - 1 := by rw [enterException_sp_sub_three]; bv_omega
  have third : (enterException c ret s).sp + 3 = s.sp := by rw [enterException_sp_sub_three]; bv_omega
  have map := enterException_memMap c ret s
  have frame : (enterException c ret s).FramePlain := by
    rw [State.FramePlain, first, second, third]
    exact ⟨State.isPlain_of_isRam_of_memMap_eq map imageRam, State.isPlain_of_isRam_of_memMap_eq map lowRam,
      State.isPlain_of_isRam_of_memMap_eq map highRam⟩
  rw [returnFromException_plain frame, first, second, third, high highRam, low lowRam, image imageRam,
    word_hiByte_loByte, Flags.ofByte_image]

/-- Settles O22: the return from the entry is known, and the entry keeps A, X and Y. -/
theorem rtiUndoesAnEntry : Obligations.RtiUndoesAnEntry := fun c ret s ram _ _ =>
  ⟨_, congrArg Host.Outcome.next (returnFromException_enterException c ret ram), rfl, rfl, rfl,
    enterException_a c ret s, enterException_x c ret s, enterException_y c ret s⟩

end Sys2Proof.Machine

namespace Sys2Proof.Machine

/-! ## Flag instructions (47_flags.md) -/

/-- Settles O57: the opcode bytes compute; five instructions are the write of their flag, and CLI and SEI also note whether the new
P.I, which is known, differs from the old. -/
theorem flagInstructionsWriteOneFlag : Obligations.FlagInstructionsWriteOneFlag := by
  refine ⟨⟨rfl, rfl, rfl, rfl, rfl, rfl, rfl⟩, fun s => ⟨rfl, rfl, ?cli, rfl, rfl, rfl, ?sei⟩⟩
  case cli =>
    exact congrArg (fun edge => Host.Outcome.next ((s.setP { s.p with i := false }).setMaskEdge edge)) (Bool.bne_false s.p.i)
  case sei =>
    exact congrArg (fun edge => Host.Outcome.next ((s.setP { s.p with i := true }).setMaskEdge edge)) (Bool.bne_true s.p.i)

/-! ## Every step completes (60_exceptions.md R232) -/

/-- Under the policy `valid_bcd_only` an addition or subtraction has a next state in either mode (log 4). -/
theorem addOrSubtract_completes (binary decimal : Byte → Byte → Bool → Sum) (m : Byte) (s : State) :
    ∃ t, addOrSubtract binary decimal m s = .next t := by
  simp only [addOrSubtract, decimalSum, Config.decimalPolicy]
  split
  · split <;> exact ⟨_, rfl⟩
  · exact ⟨_, rfl⟩

/-- No instruction faults, and the policies chosen refuse none: not the reserved bytes (log 2), JMP Indirect (log 3), ADC or SBC
(log 4). -/
theorem exec_completes (i : Instr) (s : State) : ∃ t, exec i s = .next t := by
  cases i
  case adc o | sbc o => exact addOrSubtract_completes _ _ _ _
  case jmp o => cases o <;> exact ⟨_, rfl⟩
  case bit o => cases o <;> exact ⟨_, rfl⟩
  all_goals exact ⟨_, rfl⟩

/-- Whatever the boundary comes to, there is a next state (log 20). -/
theorem completeStep_completes (s : State) : ∃ t, completeStep s = .next t := by
  unfold completeStep
  split
  · exact ⟨_, rfl⟩
  · exact ⟨_, rfl⟩
  · exact exec_completes _ _

/-- A step with a reset inside is the complete step, cut short (log 13). -/
theorem step_resetInside {s t : State} (h : (nextInputs s).resetInside = true) (complete : completeStep s = .next t) :
    step s = .next (interrupted s t) := by
  simp [step, h, complete]

/-- Settles O8: a complete step has a next state, and so has one that a reset cuts short. -/
theorem everyStateHasANextState : Obligations.EveryStateHasANextState := by
  intro s
  obtain ⟨t, complete⟩ := completeStep_completes s
  cases inside : (nextInputs s).resetInside
  case false => exact ⟨t, (step_complete inside).trans complete⟩
  case true => exact ⟨_, step_resetInside inside complete⟩

/-! ## The order of the boundary check (60_exceptions.md R239, R240, R246, R247)

One equation for each thing that can take the boundary, under the absence of what comes before it. -/

section
variable {s : State}

theorem checkBoundary_of_reset (reset : (nextInputs s).reset = true) :
    checkBoundary s = .done (resetSequence (sampleInputs s)) := by
  simp [checkBoundary, reset]

theorem checkBoundary_of_stopped (noReset : (nextInputs s).reset = false) (stopped : s.stopped = true) :
    checkBoundary s = .done (sampleInputs s) := by
  simp [checkBoundary, noReset, stopped]

theorem checkBoundary_of_nmi (noReset : (nextInputs s).reset = false) (stopped : s.stopped = false)
    (nmi : (sampleInputs s).nmiPending = true) : checkBoundary s = .enter .nmi (sampleInputs s) := by
  simp [checkBoundary, noReset, stopped, nmi]

theorem checkBoundary_of_waiting (noReset : (nextInputs s).reset = false) (stopped : s.stopped = false)
    (noNmi : (sampleInputs s).nmiPending = false) (waiting : s.waiting = true) :
    checkBoundary s = waitTurn (sampleInputs s) := by
  simp [checkBoundary, noReset, stopped, noNmi, waiting]

theorem checkBoundary_of_running (noReset : (nextInputs s).reset = false) (stopped : s.stopped = false)
    (noNmi : (sampleInputs s).nmiPending = false) (waiting : s.waiting = false) :
    checkBoundary s =
      if (irqTaken (sampleInputs s)).1 then .enter .irq (irqTaken (sampleInputs s)).2
      else .fetch ((irqTaken (sampleInputs s)).2.setMaskEdge false) := by
  simp [checkBoundary, noReset, stopped, noNmi, waiting]

/-! A step with no reset inside, by what its boundary comes to. -/

theorem step_of_done {t : State} (whole : (nextInputs s).resetInside = false) (h : checkBoundary s = .done t) :
    step s = .next t := by
  rw [step_complete whole, completeStep, h]

theorem step_of_enter {c : Cause} {t : State} (whole : (nextInputs s).resetInside = false) (h : checkBoundary s = .enter c t) :
    step s = .next (enterException c t.pc t) := by
  rw [step_complete whole, completeStep, h]

theorem step_of_fetch {t : State} (whole : (nextInputs s).resetInside = false) (h : checkBoundary s = .fetch t) :
    step s = exec (fetchInstr t).1 (fetchInstr t).2 := by
  rw [step_complete whole, completeStep, h]

end

/-! ## IRQ at the boundary of a running processor, with and without a mask edge (R240, R241) -/

/-- With no mask edge an asserted IRQ is taken by P.I. -/
theorem irqTaken_of_noEdge {s : State} (h : s.maskEdge = false) : irqTaken s = (s.irqLine && !s.p.i, s) := by
  cases line : s.irqLine <;> simp [irqTaken, line, h]

/-- An inactive line is not taken, mask edge or not. -/
theorem irqTaken_of_inactive {s : State} (h : s.irqLine = false) : irqTaken s = (false, s) := by
  simp [irqTaken, h]

/-- After a mask edge a free bit decides over an asserted IRQ (log 12). -/
theorem irqTaken_of_edge {s : State} (edge : s.maskEdge = true) (line : s.irqLine = true) :
    irqTaken s = ((Config.freeByte s.draws).getLsbD 0, { s with draws := s.draws + 1 }) := by
  rw [irqTaken, if_pos line, if_pos edge]
  rfl

/-- Where there is no mask edge, ending it changes nothing. -/
theorem State.setMaskEdge_false_of_noEdge {s : State} (h : s.maskEdge = false) : s.setMaskEdge false = s := by
  rw [← h]; rfl

/-- Settles O13: the check goes down the chain, and with no mask edge P.I decides over IRQ. -/
theorem boundaryCheckFollowsPriority : Obligations.BoundaryCheckFollowsPriority := by
  intro s waiting stopped noEdge whole
  refine ⟨rfl, rfl, rfl, ?_⟩
  split
  · next reset => exact step_of_done whole (checkBoundary_of_reset reset)
  · next noReset =>
    rw [Bool.not_eq_true] at noReset
    split
    · next nmi => exact step_of_enter whole (checkBoundary_of_nmi noReset stopped nmi)
    · next noNmi =>
      rw [Bool.not_eq_true] at noNmi
      have running := checkBoundary_of_running noReset stopped noNmi waiting
      rw [irqTaken_of_noEdge (s := sampleInputs s) noEdge,
        State.setMaskEdge_false_of_noEdge (s := sampleInputs s) noEdge] at running
      split
      · next taken => exact step_of_enter whole (running.trans (if_pos taken))
      · next notTaken => exact step_of_fetch whole (running.trans (if_neg notTaken))

/-- Settles O16: an inactive line is not taken, and over an asserted one the free bit decides, P.I not being asked. -/
theorem maskEdgeAdmitsBothOutcomes : Obligations.MaskEdgeAdmitsBothOutcomes := by
  intro s waiting stopped edge noReset whole noNmi
  have running := checkBoundary_of_running noReset stopped noNmi waiting
  refine ⟨fun inactive => ?_, fun asserted => ?_⟩
  · rw [irqTaken_of_inactive inactive] at running
    exact step_of_fetch whole running
  · rw [irqTaken_of_edge (s := sampleInputs s) edge asserted] at running
    dsimp only
    split
    · next taken => exact step_of_enter whole (running.trans (if_pos taken))
    · next notTaken => exact step_of_fetch whole (running.trans (if_neg notTaken))

/-! ### The writers of the mask edge -/

/-- Settles O15: CLI, SEI and PLP write P with the edge, an entry ends it, and no other instruction is a writer of it. -/
theorem maskEdgeOnlyAfterCliSeiPlp : Obligations.MaskEdgeOnlyAfterCliSeiPlp := by
  intro i s t noEdge h
  have kept (unlisted : .maskEdge ∉ writes i) : t.maskEdge = false := (exec_sameBut h .maskEdge unlisted).trans noEdge
  cases i
  case cli | sei => cases h; rfl
  case plp =>
    cases h
    exact congrArg (fun p => p.i != _) (pull8_p s)
  case brk => cases h; exact enterException_maskEdge _ _ s
  case asl o | lsr o | rol o | ror o | inc o | dec o | bit o => cases o <;> exact kept (by simp)
  all_goals exact kept (by simp)

/-! ## Reset at a boundary, the stopped state, the wait (R246, R247, 70_reset_and_hazards.md R260) -/

/-- A step at whose boundary reset is asserted is the reset sequence, from any state (R260). -/
theorem step_of_reset {s : State} (whole : (nextInputs s).resetInside = false) (reset : (nextInputs s).reset = true) :
    step s = .next (resetSequence (sampleInputs s)) :=
  step_of_done whole (checkBoundary_of_reset reset)

/-- Settles O23: the step is the reset sequence after the inputs are sampled, and sampling touches neither memory nor the map. -/
theorem resetEventRunsTheResetSequence : Obligations.ResetEventRunsTheResetSequence := by
  intro s reset whole
  obtain ⟨i, d⟩ := resetSequence_p (sampleInputs s)
  exact ⟨_, step_of_reset whole reset, resetSequence_waiting _, resetSequence_stopped _, i, d, resetSequence_mem _,
    resetSequence_memMap _, fun lo hi => (resetSequence_plain (s := sampleInputs s) lo hi).1⟩

/-- Sampled while stopped, the record is consumed and irq_line follows it; an NMI edge is not remembered (R246). -/
theorem sampleInputs_of_stopped {s : State} (h : s.stopped = true) :
    sampleInputs s = { s with inputs := s.inputs.tail, irqLine := (nextInputs s).irqLine } := by
  have notRemembered : (s.nmiPending || ((nextInputs s).nmiEdge && !s.stopped)) = s.nmiPending := by simp [h]
  exact congrArg ((s.setInputs s.inputs.tail).setIrqLine (nextInputs s).irqLine).setNmiPending notRemembered

/-- Settles O17: the boundary of a stopped processor comes to nothing but its inputs sampled, and either reset ends in the reset
sequence. -/
theorem stoppedOnlyResetLeaves : Obligations.StoppedOnlyResetLeaves := by
  intro s stopped
  refine ⟨fun noReset whole => ?_, fun reset => ?_⟩
  · rw [step_of_done whole (checkBoundary_of_stopped noReset stopped), sampleInputs_of_stopped stopped]
  · cases inside : (nextInputs s).resetInside
    case true =>
      obtain ⟨t, complete⟩ := completeStep_completes s
      exact ⟨_, step_resetInside inside complete, resetSequence_stopped _⟩
    case false =>
      have atBoundary : (nextInputs s).reset = true := reset.resolve_right (by simp [inside])
      exact ⟨_, step_of_reset inside atBoundary, resetSequence_stopped _⟩

/-- Settles O18: reset and NMI come first, then a turn of the wait, in each of its three cases. -/
theorem waitEndsAsSpecified : Obligations.WaitEndsAsSpecified := by
  intro s waiting stopped whole
  dsimp only
  split
  · next reset => exact step_of_reset whole reset
  · next noReset =>
    rw [Bool.not_eq_true] at noReset
    split
    · next nmi => exact step_of_enter whole (checkBoundary_of_nmi noReset stopped nmi)
    · next noNmi =>
      rw [Bool.not_eq_true] at noNmi
      have turn := checkBoundary_of_waiting noReset stopped noNmi waiting
      rcases waitTurn_cases (sampleInputs s) with ⟨line, masked, e⟩ | ⟨line, unmasked, e⟩ | ⟨line, e⟩ <;> rw [e] at turn
      · rw [sampleInputs_p] at masked
        rw [if_neg (by simp [masked]), if_pos (by simp [line, masked])]
        exact step_of_done whole turn
      · rw [sampleInputs_p] at unmasked
        rw [if_pos (by simp [line, unmasked])]
        exact step_of_enter whole turn
      · rw [if_neg (by simp [line]), if_neg (by simp [line])]
        exact step_of_done whole turn

/-! ## The exception entry (R233, R236) -/

/-- Settles O19: the entry is known field by field, byte by byte of the frame, and, with a plain vector, access by access. -/
theorem exceptionEntryPushesFrameAndVectors : Obligations.ExceptionEntryPushesFrameAndVectors := by
  refine ⟨⟨rfl, rfl, rfl, rfl, rfl, rfl, rfl⟩, fun c ret s => ?_⟩
  obtain ⟨high, low, image⟩ := enterException_frame c ret s
  refine ⟨?frame, high, low, image, fun b h => ?others, fun lo hi => enterException_plain ret lo hi⟩
  case frame =>
    apply State.ext_parts
    case sp => exact enterException_sp_sub_three c ret s
    all_goals simp
  case others => exact enterException_bytes c ret s b (h.imp_left not_mem_frameAddrs.mpr)

/-! ## A reset inside a step (R260, U18, log 13) -/

/-- What a cut leaves of the step from `s` to `t`, byte by byte and access by access: a free value in each byte of RAM that the step
writes, every other byte of memory as before the step, and the step's accesses less the newest, but for the bytes handed over. -/
structure CutAsSpecified (s t u : State) : Prop where
  memMap : u.memMap = s.memMap
  inputs : u.inputs = t.inputs
  irqLine : u.irqLine = t.irqLine
  unwritten : ∀ a, a ∉ stepWrites s ∨ ¬ s.isRam a → u.byteAt a = s.byteAt a
  written : ∀ a ∈ stepWrites s, s.isRam a → ∃ n, s.draws ≤ n ∧ u.byteAt a = Config.freeByte n
  accesses : ∃ gone made kept, t.deviceLog = gone ++ made ++ s.deviceLog ∧ u.deviceLog = kept ++ s.deviceLog ∧
    kept.map DeviceAccess.withoutValue = made.map DeviceAccess.withoutValue

/-- An interrupted step is such a cut, then the reset sequence. -/
theorem interrupted_cutAsSpecified {s t : State} (h : completeStep s = .next t) :
    ∃ u, CutAsSpecified s t u ∧ interrupted s t = resetSequence u := by
  obtain ⟨⟨new, log⟩, draws⟩ := completeStep_goes h
  obtain ⟨anyFrame, -, -, anyElsewhere, anyFree⟩ := anyBytes_spec (stepWrites s) t
  have anyLog : (anyBytes (stepWrites s) t).deviceLog = new ++ s.deviceLog := by rw [anyFrame]; exact log
  obtain ⟨cutFrame, -, gone, made, kept, split, cutLog, values⟩ := cutAccesses_spec s.deviceLog new _ anyLog
  have cutByte (a : Word) :
      (cutAccesses s.deviceLog (anyBytes (stepWrites s) t)).byteAt a = (anyBytes (stepWrites s) t).byteAt a := by
    rw [cutFrame]; rfl
  have map : t.memMap = s.memMap := completeStep_memMap h
  have ram (a : Word) : t.isRam a ↔ s.isRam a := by rw [State.isRam, State.isRam, map]
  refine ⟨_, ⟨?memMap, ?inputs, ?irqLine, fun a outside => ?unwritten, fun a written inRam => ?written,
    gone, made, kept, ?accesses, cutLog, values⟩, rfl⟩
  case memMap => rw [cutFrame, anyFrame]; exact map
  case inputs => rw [cutFrame, anyFrame]
  case irqLine => rw [cutFrame, anyFrame]
  case unwritten =>
    calc _ = (anyBytes (stepWrites s) t).byteAt a := cutByte a
      _ = t.byteAt a := anyElsewhere a (outside.imp_right (mt (ram a).mp))
      _ = s.byteAt a := completeStep_bytes h a outside
  case written =>
    obtain ⟨n, later, free⟩ := anyFree a written ((ram a).mpr inRam)
    exact ⟨n, draws.trans later, (cutByte a).trans free⟩
  case accesses => rw [log, split]

/-- Settles O24: the complete step is cut as specified, and the reset sequence after the cut keeps memory, the map and the inputs
and, with its vector plain, makes no access. -/
theorem resetInsideAStepCutsItShort : Obligations.ResetInsideAStepCutsItShort := by
  intro s t inside complete
  obtain ⟨u, cut, e⟩ := interrupted_cutAsSpecified complete
  obtain ⟨i, d⟩ := resetSequence_p u
  have bytes (a : Word) : (resetSequence u).byteAt a = u.byteAt a := by rw [State.byteAt, resetSequence_mem]; rfl
  refine ⟨resetSequence u, by rw [step_resetInside inside complete, e], resetSequence_waiting u, resetSequence_stopped u, i, d,
    (resetSequence_memMap u).trans cut.memMap, (resetSequence_inputs u).trans cut.inputs,
    (resetSequence_irqLine u).trans cut.irqLine, fun a outside => ?unwritten, fun a written inRam => ?written,
    fun lo hi => ?plain⟩
  case unwritten => exact (bytes a).trans (cut.unwritten a outside)
  case written =>
    obtain ⟨n, later, free⟩ := cut.written a written inRam
    exact ⟨n, later, (bytes a).trans free⟩
  case plain =>
    have plain {a : Word} (h : s.isPlain a) : u.isPlain a := by rwa [State.isPlain, cut.memMap]
    obtain ⟨pc, noAccess⟩ := resetSequence_plain (plain lo) (plain hi)
    obtain ⟨gone, made, kept, before, after, values⟩ := cut.accesses
    exact ⟨by rw [pc, bytes, bytes], gone, made, kept, before, noAccess.trans after, values⟩

end Sys2Proof.Machine
